-- ==== Sys2Proof/Word.lean ====
section
/-! DEFINITION. The bit-vector types of the LCD parallel-protocol engine: the transfer value, the
request word, the bus word and the response code (00_scope.md R7, R11; 30_encoding.md R80, R84, R89). -/

namespace Sys2Proof

/-- `DATA_W`: width of a transfer value, of a glyph code, of a message element (R7). -/
@[simp] abbrev DATA_W : Nat := 8

/-- `STARTCOL_W`: width of the `startColumn` operand (R7; D3). -/
@[simp] abbrev STARTCOL_W : Nat := 8

/-- A transfer value, a glyph code, a message element: `DATA_W` bits (R7). -/
abbrev Byte := BitVec DATA_W

/-- A `startColumn` operand: `STARTCOL_W` bits (R7, R87). -/
abbrev StartCol := BitVec STARTCOL_W

/-- A request word `W[15:0]` (R84). -/
abbrev ReqWord := BitVec 16

/-- A bus word `B[9:0] = {RS, RW, D7, ..., D0}` (R80). -/
abbrev BusWord := BitVec 10

/-- A fault or response code, two bits (R27, R89, R232). -/
abbrev Code := BitVec 2

end Sys2Proof
end

