-- ==== Sys2Proof/Config.lean ====
section
/-! DEFINITION. The parameters of the block (00_scope.md R7): the document's literals as named
constants (`DATA_W` and `STARTCOL_W` stand in Word.lean, beside the types they are the widths of), the OPEN parameters as the fields of `Config` (plain data that `State` holds and no step
changes), and the one free value of the model. -/

namespace Sys2Proof

/-- `COLS`: visible columns per row (R7). -/
abbrev COLS : Nat := 16
/-- `ROWS`: visible rows (R7). -/
abbrev ROWS : Nat := 2
/-- `NSIG`: logical signals, RS, RW, EN, D0 .. D7 (R7). -/
abbrev NSIG : Nat := 11
/-- `ROW0_ORIGIN`: command byte selecting row 0, column 0 (R7). -/
def ROW0_ORIGIN : Byte := 0x80
/-- `ROW1_ORIGIN`: command byte selecting row 1, column 0 (R7). -/
def ROW1_ORIGIN : Byte := 0xC0
/-- `SPACE`: the blank written by the clear phase (R7). -/
def SPACE : Byte := 0x20
/-- `CLEAR_COUNT`: blanks written by the clear phase (R7). -/
def CLEAR_COUNT : Nat := 15
/-- `ADVANCE_OP`: command byte used to advance (R7; 90_conflicts.md C3). -/
def ADVANCE_OP : Byte := 0x06
/-- `WRAP_LIMIT`: the row jump fires before the character whose index exceeds it (R7; C1). -/
def WRAP_LIMIT : Nat := 15
/-- `INIT_WAKE_COUNT`: repetitions of 0x30 in the initialization (R7). -/
def INIT_WAKE_COUNT : Nat := 3

/-- PinAssignment: logical signal to physical line identifier (R29 CR0 `PINMAP`, R30, R57). `d[b]`
is `PIN(Db)`. -/
structure PinMap where
  rs : Nat
  rw : Nat
  en : Nat
  d  : Vector Nat DATA_W
  deriving DecidableEq, Repr

/-- The eleven identifiers, in the order RS, RW, EN, D0, ..., D7. -/
def PinMap.ids (m : PinMap) : List Nat := m.rs :: m.rw :: m.en :: m.d.toList

/-- The OPEN parameters of R7: what a platform fixes before reset is released. -/
structure Config where
  /-- `PIN(sig)`, CR0 `PINMAP` (R29, R30). -/
  pins : PinMap
  /-- `T_DWELL_MS`, CR1 `DWELL` (R29, R31). -/
  dwellMs : Nat
  /-- `MSG_CAP`, the capacity of the message buffer in bytes (R7, R51). -/
  msgCap : Nat
  /-- `OBS_06_MOVES`, an observer parameter: whether 0x06 moves the controller's pointer (R215). -/
  obs06Moves : Bool
  deriving DecidableEq, Repr

/-- `LEN_W = ceil(log2(MSG_CAP+1))` (R7), for a capacity of at least 1: one more than the place of
the capacity's highest set bit. -/
def Config.lenW (c : Config) : Nat := Nat.log2 c.msgCap + 1

/-- The configuration `State.reset` stands for. DESIGN CHOICE (log entry 1, unsafe): the spec leaves
`PIN`, `T_DWELL_MS` and `MSG_CAP` OPEN; `MSG_CAP` = 40 is that of the programs of 95_test_vectors.md,
`OBS_06_MOVES` = false is the spec's default. No statement rests on these values. -/
def Config.platform : Config :=
  { pins := { rs := 0, rw := 1, en := 2, d := #v[3, 4, 5, 6, 7, 8, 9, 10] }
    dwellMs := 5
    msgCap := 40
    obs06Moves := false }

/-- FREE VALUE (log entry 2): what byte `a` of the message buffer holds, in the `epoch`-th power-on of
the buffer, before the host has written it. 93_implementation_defined.md X3: any value. It has no body,
so nothing can be proved of it. -/
opaque Config.unwrittenByte (epoch a : Nat) : Byte

end Sys2Proof
end

