-- ==== Sys2Proof/Syntax.lean ====
section
/-! DEFINITION. The abstract syntax: one constructor for each of the forty rows of
spec/opcode_table.json, the twenty request words of 30_encoding.md R85 and the twenty bus words of
R82 and R83 (whose effects are 44_display_observer.md R204 to R216). -/

namespace Sys2Proof

/-- The `row` operand of `render`, `{0,1}`: 0 is the top row, 1 the bottom row (R87). -/
inductive Row
  | top
  | bottom
  deriving DecidableEq, Repr

/-- The two encodings of the block (R80, R84): what a host presents at the request port, and what
the controller samples from the pins. -/
inductive Space
  | request
  | bus
  deriving DecidableEq, Repr

/-- Every row of the opcode table. The first twenty are requests, the last twenty are bus words. -/
inductive Instr
  /-- `INIT`, `initialize()` (R160). -/
  | init
  /-- `RENDER`, `render(message, startColumn, row, clearRow)` (R170). -/
  | render (clearRow : Bool) (row : Row) (startColumn : StartCol)
  /-- `WCMD v`, `writeRegister(COMMAND, v)` (R120). -/
  | wcmd (val : Byte)
  /-- `WDATA v`, `writeRegister(DATA, v)` (R121). -/
  | wdata (val : Byte)
  /-- `CLR`, Clear display (R131). -/
  | clr
  /-- `HOME`, Return home (R132). -/
  | home
  /-- `CSHL`, Cursor shift left, auto-increment (R133). -/
  | cshl
  /-- `CSHR`, Cursor shift right, auto-increment (R134). -/
  | cshr
  /-- `DSHL`, Display shift left (R135). -/
  | dshl
  /-- `DSHR`, Display shift right (R136). -/
  | dshr
  /-- `DOFF`, Display off, cursor off (R137). -/
  | doff
  /-- `DOFFC`, Display off, cursor on (R138). -/
  | doffc
  /-- `DON`, Display on, cursor off (R139). -/
  | don
  /-- `DONB`, Display on, cursor blink: two command bytes (R140). -/
  | donb
  /-- `MCL`, Move cursor one step left (R141). -/
  | mcl
  /-- `MCR`, Move cursor one step right (R142). -/
  | mcr
  /-- `SDL`, Shift entire display left (R143). -/
  | sdl
  /-- `SDR`, Shift entire display right (R144). -/
  | sdr
  /-- `ROW0`, Set DDRAM address to row-0 origin (R145). -/
  | row0
  /-- `ROW1`, Set DDRAM address to row-1 origin (R146). -/
  | row1
  /-- Bus word `C(0x01)`, Clear display (R211). -/
  | c01
  /-- Bus word `C(0x02)`, Return home (R212). -/
  | c02
  /-- Bus word `C(0x04)`, Cursor shift left, auto-increment (R216). -/
  | c04
  /-- Bus word `C(0x05)`, Display shift right (R216). -/
  | c05
  /-- Bus word `C(0x06)`, Cursor shift right, auto-increment; entry mode: increment (R215). -/
  | c06
  /-- Bus word `C(0x07)`, Display shift left (R216). -/
  | c07
  /-- Bus word `C(0x08)`, Display off, cursor off (R209). -/
  | c08
  /-- Bus word `C(0x0A)`, Display off, cursor on (R209). -/
  | c0a
  /-- Bus word `C(0x0C)`, Display on, cursor off (R209). -/
  | c0c
  /-- Bus word `C(0x0E)`, Display on, cursor blink, the first of two (R210). -/
  | c0e
  /-- Bus word `C(0x0F)`, Display on, cursor blink, the second of two (R210). -/
  | c0f
  /-- Bus word `C(0x10)`, Move cursor one step left (R213). -/
  | c10
  /-- Bus word `C(0x14)`, Move cursor one step right (R213). -/
  | c14
  /-- Bus word `C(0x18)`, Shift entire display left (R214). -/
  | c18
  /-- Bus word `C(0x1C)`, Shift entire display right (R214). -/
  | c1c
  /-- Bus word `C(0x30)`, function set, 8-bit wake-up (R208). -/
  | c30
  /-- Bus word `C(0x38)`, function set: 8-bit interface, 2-line display (R208). -/
  | c38
  /-- Bus word `C(0x80)`, Set DDRAM address to row-0 origin (R204). -/
  | c80
  /-- Bus word `C(0xC0)`, Set DDRAM address to row-1 origin (R205). -/
  | cc0
  /-- Bus word `D(v)`, data-register write of byte `v` (R206, R207). -/
  | data (v : Byte)
  deriving DecidableEq, Repr

/-- The space an instruction's word belongs to. -/
def Instr.space : Instr → Space
  | .init | .render _ _ _ | .wcmd _ | .wdata _ | .clr | .home | .cshl | .cshr | .dshl | .dshr
  | .doff | .doffc | .don | .donb | .mcl | .mcr | .sdl | .sdr | .row0 | .row1 => .request
  | .c01 | .c02 | .c04 | .c05 | .c06 | .c07 | .c08 | .c0a | .c0c | .c0e | .c0f | .c10 | .c14
  | .c18 | .c1c | .c30 | .c38 | .c80 | .cc0 | .data _ => .bus

/-- `RENDER` with the operands a caller leaves out: `startColumn: int = 0, row: {0,1} = 0,
clearRow: bool = true` (R95). -/
def Instr.renderCall (startColumn : StartCol := 0) (row : Row := .top) (clearRow : Bool := true) : Instr :=
  .render clearRow row startColumn

end Sys2Proof
end

