-- ==== Sys2Proof/Machine/State.lean ====
section
/-! DEFINITION. The state of the machine as plain data: the engine's latches (10_state.md R20), the
configuration it is given (R29), what a claim observes (00_scope.md R9), what the outside presents at
the ports (30_encoding.md R88, 70_reset_and_hazards.md R260) and the Display observer of
44_display_observer.md. -/

namespace Sys2Proof.Machine

/-! ### The pins -/

/-- A level given to `setPinLevel` (R11). -/
inductive Level
  | low
  | high
  deriving DecidableEq, Repr

/-- A pin latch: the last level written, or `UNDEF`, which is not a level (R11, R22). -/
inductive Latch
  | undef
  | driven (l : Level)
  deriving DecidableEq, Repr

/-- The eleven logical signals (R21); `d b` is data line `Db`. -/
inductive Sig
  | rs
  | rw
  | en
  | d (b : Fin DATA_W)
  deriving DecidableEq, Repr

/-- The eleven output latches `PINL[sig]` (R20, R21). -/
structure PinLatches where
  rs : Latch
  rw : Latch
  en : Latch
  d  : Vector Latch DATA_W
  deriving DecidableEq, Repr

/-- A pin event (R15): `Set`, `Dwell` or `Cfg` (R12). -/
inductive PinEvent
  | cfg (sig : Sig)
  | set (sig : Sig) (lvl : Level)
  | dwell (ms : Nat)
  deriving DecidableEq, Repr

/-! ### The engine's latches -/

/-- `T_KIND`: `COMMAND` = 0, `DATA` = 1 (R20, R110). -/
inductive Kind
  | command
  | data
  deriving DecidableEq, Repr

/-- `SEQ`: `IDLE`, or `AT(n)`, position `n` in the event list of the current request (R20, R23). -/
inductive Seq
  | idle
  | pos (n : Nat)
  deriving DecidableEq, Repr

/-- The message buffer as the bytes the host has written, by address (R50, R51). An address that is not
listed holds an unspecified byte (R40, X3), which no listed entry equals. -/
abbrev Memory := List Host.Cell

/-! ### The ports -/

/-- The host's two writes of the message space (R53). -/
inductive HostWrite
  /-- `HostWriteMsg(a, b)`. -/
  | byte (a : Nat) (b : Byte)
  /-- `HostSetLen(n)`. -/
  | len (n : Nat)
  deriving DecidableEq, Repr

/-- What the one host agent presents, one entry after the other. A write or a request stands at the port
until the engine is idle (R53, R88). -/
inductive HostInput
  /-- Nothing is presented for one engine step. -/
  | quiet
  /-- A message write. -/
  | write (h : HostWrite)
  /-- A request word. -/
  | request (w : ReqWord)
  /-- A message write and a request presented together (R237 (c)). -/
  | both (h : HostWrite) (w : ReqWord)
  deriving DecidableEq, Repr

/-! ### The Display observer -/

/-- `entryMode` (R200). -/
inductive EntryMode
  | increment
  | decrement
  deriving DecidableEq, Repr

/-- `cell[r][c]` for the visible columns of the visible rows (R200); `none` is `unknown`. -/
structure Grid where
  rows : Vector (Vector (Option Byte) COLS) ROWS
  deriving DecidableEq, Repr

/-- The observer's Display (R200). Every field may be `unknown`, which is `none`. -/
structure Display where
  /-- `activeRow`. -/
  row : Option Row
  /-- `cursorColumn`: 0 to 15 are visible, larger values are past the visible area. -/
  col : Option Nat
  cells : Grid
  displayEnabled : Option Bool
  cursorVisible : Option Bool
  cursorBlinking : Option Bool
  entryMode : Option EntryMode
  /-- The display shift, 0 when unshifted. -/
  shift : Option Int
  /-- Sticky: something was stored or moved beyond column 15. -/
  offgrid : Option Bool
  deriving DecidableEq, Repr

/-- Whether the observer has seen a complete initialization trace (R203). -/
inductive ObsPhase
  /-- The pulse in progress did not begin with a clean rise of EN (R118, R272): its word says nothing. -/
  | blind
  /-- Before a complete `INIT` trace. -/
  | waiting
  /-- A complete `INIT` trace has been seen. -/
  | ready
  deriving DecidableEq, Repr

/-- The observer: the environment model of the controller, which no engine rule reads (R36, R222). -/
structure Observer where
  phase : ObsPhase
  /-- The last `seen` bus words are the first `seen` words of the initialization trace (R203, R221). -/
  seen : Nat
  display : Display
  deriving DecidableEq, Repr

/-! ### The whole state -/

/-- The state of the machine. -/
structure State where
  /-- The configuration, CR0 `PINMAP` and CR1 `DWELL` (R29) and the other OPEN parameters of R7. -/
  cfg : Config
  /-- `PINL[RS]`, `PINL[RW]`, `PINL[EN]`, `PINL[D0]` .. `PINL[D7]` (R20). -/
  pins : PinLatches
  /-- `SEQ` (R20, R23). -/
  seq : Seq
  /-- `OPREG`, the accepted request word (R20, R32). -/
  opreg : ReqWord
  /-- `R_LEN`, the length snapshot (R20, R34). -/
  rLen : Nat
  /-- `T_KIND` (R20, R33). -/
  tKind : Kind
  /-- `T_VAL` (R20, R33). -/
  tVal : Byte
  /-- `CNT` (R20, R34). -/
  cnt : BitVec 8
  /-- `IDX` (R20, R34). -/
  idx : Nat
  /-- `DROPPED` (R20, R25). -/
  dropped : Bool
  /-- `FAULT` (R20, R27). -/
  fault : Code
  /-- `MSG` (R20, R35, R51). -/
  msg : Memory
  /-- `MSG_LEN` (R20, R35, R51). -/
  msgLen : Nat
  /-- The response codes reported since reset, oldest first (R89, R231). -/
  responses : List Code
  /-- The pin-event trace: all pin events since reset, in order (R9). -/
  trace : List PinEvent
  /-- The reset input is asserted (R260). -/
  inReset : Bool
  /-- Environment: the level of the reset input in each coming engine step; none listed means released. -/
  resetIn : List Bool
  /-- Environment: what the host presents, in order (R67, R88). -/
  host : List HostInput
  /-- Environment: the bus word of a pulse in progress that the controller has still to take (R117, R202). -/
  strobe : Option BusWord
  /-- Environment: the Display observer (R200). -/
  observer : Observer
  /-- The model's own: which power-on of the message buffer this is, the argument of its free bytes. -/
  drawEpoch : Nat
  deriving DecidableEq, Repr

/-- The reasons the machine stops. No state that satisfies the invariant of Safety.lean raises one: the
spec's own faults are codes in `FAULT`, after which the engine carries on (R231, R233). -/
inductive Fault
  /-- Raised by the sequencer when `SEQ` is `AT(n)` and the current request has no event number `n`, which
  R23 excludes. Safe: the machine stops where the spec gives no event. -/
  | sequencerOffList
  /-- Raised by the message read of RENDER at an address that is not below `MSG_CAP`, which R52 excludes.
  Safe: the byte does not exist. -/
  | messageOutOfRange
  deriving DecidableEq, Repr

/-- The reasons the machine refuses to go on. -/
inductive Refusal
  /-- Raised by `exec` for an instruction that has no meaning yet. Safe. No arm raises it. -/
  | notModelled (mnemonic : String)
  /-- Raised by `step` in a configuration outside the legal values of R7, R29 and R30. Safe: R30 tells
  a model to refuse it. -/
  | badConfiguration
  deriving DecidableEq, Repr

/-! ### Reset -/

/-- All eleven latches `UNDEF` (R22, R40). -/
def PinLatches.undefined : PinLatches :=
  { rs := .undef, rw := .undef, en := .undef, d := Vector.replicate DATA_W .undef }

/-- The grid with every cell the same. -/
def Grid.filled (v : Option Byte) : Grid := { rows := Vector.replicate ROWS (Vector.replicate COLS v) }

/-- Every field `unknown` (R217). -/
def Display.unknown : Display :=
  { row := none, col := none, cells := Grid.filled none, displayEnabled := none, cursorVisible := none
    cursorBlinking := none, entryMode := none, shift := none, offgrid := none }

/-- The observer's initial state: every field `unknown` and `offgrid = false` (R201). -/
def Observer.initial : Observer :=
  { phase := .waiting, seen := 0, display := { Display.unknown with offgrid := some false } }

/-- The logical signals in the order of R261. -/
def Sig.all : Vector Sig NSIG := #v[.rs, .rw, .en, .d 0, .d 1, .d 2, .d 3, .d 4, .d 5, .d 6, .d 7]

/-- `Cfg(RS) Cfg(RW) Cfg(EN) Cfg(D0) ... Cfg(D7)`, the first eleven events of every trace (R261). -/
def cfgEvents : List PinEvent := Sig.all.toList.map .cfg

/-- The machine just after release of reset, in a given configuration (R40, R260, R261), with nothing
presented at its ports and a controller that no one knows anything of (R201). `OPREG`, `T_KIND` and
`T_VAL`, which R40 leaves unspecified and no rule reads before they are written, are zero: DESIGN
CHOICE (log entry 3, unsafe). -/
def State.resetWith (c : Config) : State :=
  { cfg := c
    pins := PinLatches.undefined
    seq := .idle
    opreg := 0
    rLen := 0
    tKind := .command
    tVal := 0
    cnt := 0
    idx := 0
    dropped := false
    fault := 0
    msg := []
    msgLen := 0
    responses := []
    trace := cfgEvents
    inReset := false
    resetIn := []
    host := []
    strobe := none
    observer := Observer.initial
    drawEpoch := 0 }

/-- The machine just after release of reset (R40, R260, R261). -/
def State.reset : State := State.resetWith Config.platform

end Sys2Proof.Machine
end

