-- ==== Sys2Proof/Machine/Flags.lean ====
section
/-! DEFINITION. The flags and the status port: `BUSY`, `DROPPED`, `FAULT` (10_state.md R25 to R29). There
are no others (R28). -/

namespace Sys2Proof.Machine

/-- `BUSY` is 1 exactly while `SEQ != IDLE` (R26). -/
def State.busy (s : State) : Bool :=
  match s.seq with
  | .idle => false
  | .pos _ => true

/-- CR2 `STATUS`: bit 0 `BUSY`, bit 1 `DROPPED`, bits 3:2 `FAULT` (R29). It is read at any time, without
a request and without side effect (R247). -/
def State.status (s : State) : BitVec 4 := s.fault ++ BitVec.ofBool s.dropped ++ BitVec.ofBool s.busy

/-- The fault and response codes of R232. -/
def codeOk : Code := 0
/-- `ILLEGAL_REQUEST` (R232). -/
def codeIllegalRequest : Code := 1
/-- `LENGTH_RANGE` (R232). -/
def codeLengthRange : Code := 2

/-- The sticky code: written only when it is 0 (R27, R231). -/
def stickyFault (old new : Code) : Code := if old = 0 then new else old

end Sys2Proof.Machine
end

