-- ==== Sys2Proof/WellFormed.lean ====
section
/-! DEFINITION. Well-formedness. An operand's range is carried by its type (R86, R87), so what is left
to check of an instruction is the space it is used in; the open parameters have the legal values
of 00_scope.md R7 and 10_state.md R29 and R30. -/

namespace Sys2Proof

/-- The instruction may stand in the given space: a request word at the request port (R85), a bus
word on the pins (R82, R83). -/
def Instr.wf (sp : Space) (i : Instr) : Bool := i.space == sp

/-- The eleven pin identifiers are pairwise distinct (R30). -/
def PinMap.wf (m : PinMap) : Bool := decide m.ids.Nodup

/-- The legal values of the open parameters: eleven pairwise distinct pins (R30), a dwell of at least
one millisecond (R29 CR1), a capacity of at least 17 bytes (R7). -/
def Config.wf (c : Config) : Bool := c.pins.wf && decide (1 ≤ c.dwellMs) && decide (17 ≤ c.msgCap)

end Sys2Proof
end

