-- ==== Sys2Proof/Decode.lean ====
section
/-! DEFINITION. Decoding of both encodings (30_encoding.md R80 to R91), total and rejecting by name,
and after it the encoder, written from the same tables. -/

namespace Sys2Proof

/-- Why a word names no instruction. -/
inductive Reject
  /-- The `OP` field is 0b00000 or 0b00101 to 0b01111 (R90). -/
  | reservedOp (op : BitVec 5)
  /-- A bit that the word's format requires to be 0 is 1 (R90). -/
  | mustBeZero (w : ReqWord)
  /-- No row of R82 or R83 has this bus word (R217). -/
  | noBusRow (b : BusWord)
  /-- A serialised bus word with a bit above bit 9 (DESIGN CHOICE, log entry 27). -/
  | overlong (w : ReqWord)
  /-- Fewer than the two bytes a serialised word has (R59). -/
  | truncated
  deriving DecidableEq, Repr

/-- `W[15:11]`, the operation field (R84). -/
def opField (w : ReqWord) : BitVec 5 := w.extractLsb' 11 5

/-- `W[7:0]`, `VAL` of format W (R86). -/
def lowByte (w : ReqWord) : Byte := w.extractLsb' 0 DATA_W

/-- `W[7:0]`, `COL` of format R (R87). -/
def colField (w : ReqWord) : StartCol := w.extractLsb' 0 STARTCOL_W

/-- `row = W[9]`, 0 top, 1 bottom (R87). -/
def rowOfBit (b : Bool) : Row := if b then .bottom else .top

/-- Format N: `W[10:0]` must be 0 (R84, R90). -/
def formatN (w : ReqWord) (i : Instr) : Except Reject Instr :=
  if w.extractLsb' 0 11 = 0 then .ok i else .error (.mustBeZero w)

/-- Format W: `W[10:8]` must be 0, `VAL = W[7:0]` (R84, R86, R90). -/
def formatW (w : ReqWord) (mk : Byte → Instr) : Except Reject Instr :=
  if w.extractLsb' 8 3 = 0 then .ok (mk (lowByte w)) else .error (.mustBeZero w)

/-- Format R: `W[8]` must be 0; `CLR = W[10]`, `ROW = W[9]`, `COL = W[7:0]` (R84, R87, R90). -/
def formatR (w : ReqWord) : Except Reject Instr :=
  if w.getLsbD 8 then .error (.mustBeZero w)
  else .ok (.render (w.getLsbD 10) (rowOfBit (w.getLsbD 9)) (colField w))

/-- The request decoder: the table of R85 over the operation field. -/
def decodeRequest (w : ReqWord) : Except Reject Instr :=
  match (opField w).toNat with
  | 1  => formatN w .init
  | 2  => formatR w
  | 3  => formatW w .wcmd
  | 4  => formatW w .wdata
  | 16 => formatN w .clr
  | 17 => formatN w .home
  | 18 => formatN w .cshl
  | 19 => formatN w .cshr
  | 20 => formatN w .dshl
  | 21 => formatN w .dshr
  | 22 => formatN w .doff
  | 23 => formatN w .doffc
  | 24 => formatN w .don
  | 25 => formatN w .donb
  | 26 => formatN w .mcl
  | 27 => formatN w .mcr
  | 28 => formatN w .sdl
  | 29 => formatN w .sdr
  | 30 => formatN w .row0
  | 31 => formatN w .row1
  | _  => .error (.reservedOp (opField w))

/-- The command bytes of R82, each with the row of the opcode table it is. -/
def decodeCommandByte (v : Byte) : Option Instr :=
  match v.toNat with
  | 0x01 => some .c01
  | 0x02 => some .c02
  | 0x04 => some .c04
  | 0x05 => some .c05
  | 0x06 => some .c06
  | 0x07 => some .c07
  | 0x08 => some .c08
  | 0x0A => some .c0a
  | 0x0C => some .c0c
  | 0x0E => some .c0e
  | 0x0F => some .c0f
  | 0x10 => some .c10
  | 0x14 => some .c14
  | 0x18 => some .c18
  | 0x1C => some .c1c
  | 0x30 => some .c30
  | 0x38 => some .c38
  | 0x80 => some .c80
  | 0xC0 => some .cc0
  | _    => none

/-- The bus decoder (R81): bit 9 is RS, bit 8 is RW and always 0, the low byte is the value. -/
def decodeBus (b : BusWord) : Except Reject Instr :=
  if b.getLsbD 8 then .error (.noBusRow b)
  else if b.getLsbD 9 then .ok (.data (b.extractLsb' 0 8))
  else match decodeCommandByte (b.extractLsb' 0 8) with
    | some i => .ok i
    | none   => .error (.noBusRow b)

/-- A word of one of the two spaces. -/
inductive Encoded
  | request (w : ReqWord)
  | bus (b : BusWord)
  deriving DecidableEq, Repr

/-- The decoder of both spaces. -/
def decode : Encoded → Except Reject Instr
  | .request w => decodeRequest w
  | .bus b     => decodeBus b

/-- Decoding of a serialised word: two bytes, the low byte first. R59 says so of a request word. Of a bus
word, which the spec never serialises, it is the model's choice, as that it is carried in the low ten bits
with the six above them 0 (DESIGN CHOICE, log entry 27). Answers the bytes that are left. -/
def decodeBytes (sp : Space) : List Byte → Except Reject (Instr × List Byte)
  | lo :: hi :: rest =>
    let w : ReqWord := hi.setWidth 16 <<< 8 ||| lo.setWidth 16
    match sp with
    | .request => (decodeRequest w).map (·, rest)
    | .bus =>
      if w.extractLsb' 10 6 = 0 then (decodeBus (w.extractLsb' 0 10)).map (·, rest)
      else .error (.overlong w)
  | _ => .error .truncated

/-! ### The encoder -/

/-- A format N word: `OP` and eleven zero bits (R84). -/
def wordN (op : BitVec 5) : ReqWord := op.setWidth 16 <<< 11

/-- A format W word: `OP`, three zero bits, `VAL` (R84). -/
def wordW (op : BitVec 5) (v : Byte) : ReqWord := op.setWidth 16 <<< 11 ||| v.setWidth 16

/-- Bit 9 of a format R word (R87). -/
def Row.bit : Row → Bool
  | .top => false
  | .bottom => true

/-- The number of a row, `row` in `{0, 1}` (R87, R200). -/
def Row.index : Row → Fin ROWS
  | .top => 0
  | .bottom => 1

/-- A format R word: `OP`, `CLR`, `ROW`, a zero bit, `COL` (R84). -/
def wordR (op : BitVec 5) (clearRow : Bool) (row : Row) (col : StartCol) : ReqWord :=
  op.setWidth 16 <<< 11 ||| (BitVec.ofBool clearRow).setWidth 16 <<< 10
    ||| (BitVec.ofBool row.bit).setWidth 16 <<< 9 ||| col.setWidth 16

/-- The bus word `{0b00, v}` of `C(v)` (R80). -/
def commandWord (v : Byte) : BusWord := v.setWidth 10

/-- The bus word `{0b10, v}` of `D(v)` (R80). -/
def dataWord (v : Byte) : BusWord := 0x200 ||| v.setWidth 10

/-- The word of an instruction, from the tables of R82, R83 and R85. -/
def encode : Instr → Encoded
  | .init           => .request (wordN 0b00001)
  | .render c r col => .request (wordR 0b00010 c r col)
  | .wcmd v         => .request (wordW 0b00011 v)
  | .wdata v        => .request (wordW 0b00100 v)
  | .clr            => .request (wordN 0b10000)
  | .home           => .request (wordN 0b10001)
  | .cshl           => .request (wordN 0b10010)
  | .cshr           => .request (wordN 0b10011)
  | .dshl           => .request (wordN 0b10100)
  | .dshr           => .request (wordN 0b10101)
  | .doff           => .request (wordN 0b10110)
  | .doffc          => .request (wordN 0b10111)
  | .don            => .request (wordN 0b11000)
  | .donb           => .request (wordN 0b11001)
  | .mcl            => .request (wordN 0b11010)
  | .mcr            => .request (wordN 0b11011)
  | .sdl            => .request (wordN 0b11100)
  | .sdr            => .request (wordN 0b11101)
  | .row0           => .request (wordN 0b11110)
  | .row1           => .request (wordN 0b11111)
  | .c01            => .bus (commandWord 0x01)
  | .c02            => .bus (commandWord 0x02)
  | .c04            => .bus (commandWord 0x04)
  | .c05            => .bus (commandWord 0x05)
  | .c06            => .bus (commandWord 0x06)
  | .c07            => .bus (commandWord 0x07)
  | .c08            => .bus (commandWord 0x08)
  | .c0a            => .bus (commandWord 0x0A)
  | .c0c            => .bus (commandWord 0x0C)
  | .c0e            => .bus (commandWord 0x0E)
  | .c0f            => .bus (commandWord 0x0F)
  | .c10            => .bus (commandWord 0x10)
  | .c14            => .bus (commandWord 0x14)
  | .c18            => .bus (commandWord 0x18)
  | .c1c            => .bus (commandWord 0x1C)
  | .c30            => .bus (commandWord 0x30)
  | .c38            => .bus (commandWord 0x38)
  | .c80            => .bus (commandWord 0x80)
  | .cc0            => .bus (commandWord 0xC0)
  | .data v         => .bus (dataWord v)

/-- A word serialised into two bytes, the low byte first: of a request word R59, of a bus word, in the low ten
bits, the model's choice (DESIGN CHOICE, log entry 27). -/
def Encoded.bytes : Encoded → List Byte
  | .request w => [w.extractLsb' 0 8, w.extractLsb' 8 8]
  | .bus b     => [b.extractLsb' 0 8, (b.extractLsb' 8 2).setWidth 8]

/-- The space of a word given as the opcode table numbers it. A table row of the bus space is ten bits
wide and every request word of the table is at least 0x0800, so the number tells the two apart. -/
def tableSpace (nbits w : Nat) : Space := if nbits ≤ 10 || w < 0x400 then .bus else .request

/-- The instruction the decoder reads from the word `w`, bits numbered as spec/opcode_table.json numbers
them, laid out as two bytes, the low byte first (R59; of a bus word DESIGN CHOICE, log entry 27). -/
def decodeTableWord (nbits w : Nat) : Option Instr :=
  if w < 0x10000 then
    match decodeBytes (tableSpace nbits w) [BitVec.ofNat 8 w, BitVec.ofNat 8 (w / 256)] with
    | .ok (i, _) => some i
    | .error _   => none
  else none

end Sys2Proof
end

