-- ==== Sys2Proof/Machine/Operands.lean ====
section
/-! DEFINITION. The operand forms: the row origin and the advance count of RENDER (30_encoding.md R87,
43_render.md R171), the message byte (20_memory.md R52), and the levels of a transfer value on the
lines (20_memory.md R58, 40_transport.md R112). -/

namespace Sys2Proof.Machine

/-- `origin`: the command byte of the requested row's origin, 0x80 or 0xC0 (R171). -/
def rowOrigin : Row → Byte
  | .top => ROW0_ORIGIN
  | .bottom => ROW1_ORIGIN

/-- `startColumn = zext(W[7:0])`, 0 to 255 (R87). -/
def advanceCount (startColumn : StartCol) : Nat := startColumn.toNat

/-- A bit value of 1 is driven `HIGH` and 0 `LOW` (R11, R58). -/
def levelOfBit (b : Bool) : Level := if b then .high else .low

/-- `lvl(b)`: the level of data line `Db` for the value `v`, bit 7 on D7 to bit 0 on D0 (R58, R112). -/
def dataLevel (v : Byte) (b : Fin DATA_W) : Level := levelOfBit (v.getLsbD b)

/-- `rs`: `HIGH` for `DATA`, `LOW` for `COMMAND` (R110, R112). -/
def Kind.rsLevel : Kind → Level
  | .command => .low
  | .data => .high

/-- The bit a latch presents; `UNDEF` presents none (R11, R22). -/
def Latch.bit? : Latch → Option Bool
  | .undef => none
  | .driven .low => some false
  | .driven .high => some true

end Sys2Proof.Machine
end

