-- ==== Sys2Proof/Machine/Ops.lean ====
section
/-! DEFINITION. The shared operations: the message memory (20_memory.md R51 to R53), the pin events
(00_scope.md R12), acceptance of a request (30_encoding.md R88), `raise Fault(code)`
(60_exceptions.md R231), the events of a transfer (40_transport.md R112), reset
(70_reset_and_hazards.md R260, R261) and the observer's step (44_display_observer.md R202, R203). -/

namespace Sys2Proof.Machine

/-- What a meaning answers. -/
abbrev Result := Host.Outcome State Fault Refusal

/-! ### The message space -/

/-- The byte the host has written at `a`, if it has written one (R51). -/
def Memory.read? : Memory → Nat → Option Byte
  | [], _ => none
  | (x, v) :: m, a => if a = x then some v else Memory.read? m a

/-- `MSG[a] <- b`, keeping the addresses strictly rising. -/
def Memory.write : Memory → Nat → Byte → Memory
  | [], a, b => [(a, b)]
  | (x, v) :: m, a, b =>
    if a < x then (a, b) :: (x, v) :: m
    else if a = x then (a, b) :: m
    else (x, v) :: Memory.write m a b

/-- The canonical form: addresses strictly rising. An unlisted address reads as an unspecified byte, which
no entry equals. -/
abbrev Memory.wf (m : Memory) : Prop := (m.map Prod.fst).Pairwise (· < ·)

/-- Every listed address exists (R51). -/
abbrev Memory.below (m : Memory) (cap : Nat) : Prop := ∀ c ∈ m, c.1 < cap

/-- `MSG[a]` (R51): the byte the host wrote there, or the free value of an unwritten byte (X3). -/
def State.messageByte (s : State) (a : Nat) : Byte :=
  match s.msg.read? a with
  | some b => b
  | none => Config.unwrittenByte s.drawEpoch a

/-- `MemRead(MSG, a, 1)` (R52); no byte exists at or beyond `MSG_CAP` (R51). -/
def State.memRead (s : State) (a : Nat) : Option Byte :=
  if a < s.cfg.msgCap then some (s.messageByte a) else none

/-- The message of a RENDER, `MSG[0 .. n-1]` (R66, R87). -/
def State.message (s : State) (n : Nat) : List Byte := (List.range n).map s.messageByte

/-- `HostWriteMsg(a, b)` and `HostSetLen(n)` (R53): a write at or beyond `MSG_CAP` is refused and changes
nothing; so does a length the `LEN_W`-bit register cannot hold (DEDUCED, log entry 4, safe). -/
def hostWrite (h : HostWrite) (s : State) : State :=
  match h with
  | .byte a b => if a < s.cfg.msgCap then { s with msg := s.msg.write a b } else s
  | .len n => if n < 2 ^ s.cfg.lenW then { s with msgLen := n } else s

/-! ### Pins and events -/

/-- `PIN(sig)` (R57). -/
def pinOf (m : PinMap) : Sig → Nat
  | .rs => m.rs
  | .rw => m.rw
  | .en => m.en
  | .d b => m.d[b]

/-- `PINL[sig]`. -/
def PinLatches.get (p : PinLatches) : Sig → Latch
  | .rs => p.rs
  | .rw => p.rw
  | .en => p.en
  | .d b => p.d[b]

/-- `PINL[sig] <- lvl`. -/
def PinLatches.set (p : PinLatches) (sig : Sig) (lvl : Level) : PinLatches :=
  match sig with
  | .rs => { p with rs := .driven lvl }
  | .rw => { p with rw := .driven lvl }
  | .en => { p with en := .driven lvl }
  | .d b => { p with d := p.d.set b (.driven lvl) }

/-- The word `{RS, RW, D7, ..., D0}` on the pins (R80, R117), if all ten latches are defined. -/
def PinLatches.busWord? (p : PinLatches) : Option BusWord := do
  let rs ← p.rs.bit?
  let rw ← p.rw.bit?
  let d7 ← p.d[7].bit?
  let d6 ← p.d[6].bit?
  let d5 ← p.d[5].bit?
  let d4 ← p.d[4].bit?
  let d3 ← p.d[3].bit?
  let d2 ← p.d[2].bit?
  let d1 ← p.d[1].bit?
  let d0 ← p.d[0].bit?
  return BitVec.ofBool rs ++ BitVec.ofBool rw ++ BitVec.ofBool d7 ++ BitVec.ofBool d6
    ++ BitVec.ofBool d5 ++ BitVec.ofBool d4 ++ BitVec.ofBool d3 ++ BitVec.ofBool d2
    ++ BitVec.ofBool d1 ++ BitVec.ofBool d0

/-- `Set(sig, lvl)` (R12): the latch takes the level and the event joins the trace, whether or not the
level changes (R111). -/
def setPin (sig : Sig) (lvl : Level) (s : State) : State :=
  { s with pins := s.pins.set sig lvl, trace := s.trace ++ [.set sig lvl] }

/-! ### The observer -/

/-- All fields `unknown` but the sticky `offgrid` (R201, R203). -/
def Display.forget (d : Display) : Display := { Display.unknown with offgrid := d.offgrid }

/-- Nothing is known of the controller until the next complete `INIT` trace (R203, R217). -/
def Observer.lost : Observer := { phase := .waiting, seen := 0, display := Display.unknown }

/-- The same, and the pulse that is beginning says nothing (R118, R272). -/
def Observer.blinded : Observer := { phase := .blind, seen := 0, display := Display.unknown }

/-- `C30 C30 C30 C38 C08 C01 C06` as bus words (R203). -/
def initTrace : List BusWord := List.replicate INIT_WAKE_COUNT 0x030 ++ [0x038, 0x008, 0x001, 0x006]

/-- How many words of the initialization trace have been seen once `w` follows `seen` of them: the longest
end of the trace so far that is a beginning of the initialization trace (R203). -/
def initSeen (seen : Nat) (w : BusWord) : Nat :=
  if initTrace[seen]? = some w then seen + 1
  else if w = 0x030 then (if seen = INIT_WAKE_COUNT then INIT_WAKE_COUNT else 1)
  else 0

/-- A display-control byte sets the three booleans (R209, R210). -/
def Display.control (on cursor blink : Bool) (d : Display) : Display :=
  { d with displayEnabled := some on, cursorVisible := some cursor, cursorBlinking := some blink }

/-- Clear display (R211): every cell blank, the pointer at (0, 0), the shift undone, `offgrid` cleared, entry
mode increment. An entry mode that 0x04, 0x05 or 0x07 made `unknown` stays so until a `C(0x06)`: R216
(DEDUCED, log entry 8, safe). -/
def Display.clear (d : Display) : Display :=
  { d with row := some .top, col := some 0, cells := Grid.filled (some SPACE), shift := some 0
           offgrid := some false, entryMode := d.entryMode.map fun _ => .increment }

/-- What the rules R204 to R216 give for the initialization trace less its last word, from any state:
0x30 and 0x38 change nothing, 0x08 turns the display off, 0x01 clears (R203, R208, R209, R211). -/
def Display.initPrefix : Display := (Display.unknown.control false false false).clear

/-- The last word of an initialization trace, "entry mode: increment, no display shift": what 0x06 does "in the
initialization" (R215), where the pointer stays, whatever `OBS_06_MOVES` (R221; log entry 10). -/
def Display.setIncrement (d : Display) : Display := { d with entryMode := some .increment }

/-- One step of the observer on the bus word `w`, whose effect on the Display is `f` (R202, R203). Before a
complete `INIT` trace every field is `unknown`. The word that completes such a trace has the effect
0x06 has in the initialization, on what the six words before it give (R221). -/
def Observer.take (o : Observer) (w : BusWord) (f : Display → Display) : Observer :=
  let seen := initSeen o.seen w
  match o.phase with
  | .blind => { phase := .waiting, seen := 0, display := o.display.forget }
  | .waiting =>
    if seen = initTrace.length then { phase := .ready, seen, display := Display.initPrefix.setIncrement }
    else { phase := .waiting, seen, display := o.display.forget }
  | .ready =>
    { phase := .ready, seen
      display := if seen = initTrace.length then o.display.setIncrement else f o.display }

/-- The observer takes the bus word `w` of the pulse in progress (R202). -/
def observe (w : BusWord) (f : Display → Display) (s : State) : State :=
  { s with strobe := none, observer := s.observer.take w f }

/-- The observer meets a bus word that has no rule: it reasons no further (R217, Z5, Z6). -/
def observeOther (s : State) : State := { s with strobe := none, observer := Observer.lost }

/-- `Set(EN, lvl)` outside a transfer (R161). Unless EN was low it may be a strobe of anything (R272, X6). -/
def setIdleEnable (lvl : Level) (s : State) : State :=
  setPin .en lvl { s with observer := if s.pins.en = .driven .low then s.observer else Observer.lost }

/-- `Set(EN, HIGH)` of a transfer (R112). If EN was not low, whether the controller sees a clean pulse is not
determined (R118). -/
def raiseEnable (s : State) : State :=
  setPin .en .high
    { s with observer := if s.pins.en = .driven .low then s.observer else Observer.blinded }

/-- `Set(EN, LOW)` of a transfer (R112). -/
def lowerEnable (s : State) : State := setPin .en .low s

/-- `Dwell(T_DWELL_MS)` (R12), while EN is high: the controller samples the bus word (R117), to act on it in
the observer's next step (R202). Latches that are not all defined say nothing. -/
def dwell (s : State) : State :=
  match s.pins.busWord? with
  | some w => { s with trace := s.trace ++ [.dwell s.cfg.dwellMs], strobe := some w }
  | none => { s with trace := s.trace ++ [.dwell s.cfg.dwellMs], observer := Observer.lost }

/-! ### The sequencer's programs -/

/-- The value operand of a transfer: a byte of the operation, or the message byte at `IDX` (R171). -/
inductive Src
  | lit (v : Byte)
  | msg
  deriving DecidableEq, Repr

/-- A latch update of R171, which is no pin event. -/
inductive LatchOp
  /-- `CNT <- 0` -/
  | clearCnt
  /-- `CNT <- CNT + 1` -/
  | countUp
  /-- `IDX <- 0` -/
  | clearIdx
  /-- `IDX <- IDX + 1` -/
  | indexUp
  /-- `DROPPED <- 1` -/
  | drop
  deriving DecidableEq, Repr

/-- A transfer `Xfer(kind, v)` as an operation issues it, with the latch updates that follow it in R171. -/
structure Xfer where
  kind : Kind
  src : Src
  after : List LatchOp
  deriving DecidableEq, Repr

/-- The transport phases `T_RW`, `T_RS`, `T_D7` .. `T_D0`, `T_ENH`, `T_DWELL`, `T_ENL` (R112, R119). -/
inductive TPhase
  | rw
  | rs
  | d (b : Fin DATA_W)
  | enh
  | dwell
  | enl
  deriving DecidableEq, Repr

/-- One position of an operation's event list, with what the sequencer does there: a write of INIT step 1
(R161), or a phase of a transfer. -/
inductive Micro
  | forceLow (sig : Sig)
  | phase (p : TPhase) (x : Xfer)
  deriving DecidableEq, Repr

/-- `C(v)` with nothing after it. -/
def cmd (v : Byte) (after : List LatchOp := []) : Xfer := { kind := .command, src := .lit v, after }

/-- `D(v)` with nothing after it. -/
def dat (v : Byte) (after : List LatchOp := []) : Xfer := { kind := .data, src := .lit v, after }

/-- The thirteen phases in the order of R112. -/
def transportPhases : List TPhase :=
  [.rw, .rs, .d 7, .d 6, .d 5, .d 4, .d 3, .d 2, .d 1, .d 0, .enh, .dwell, .enl]

/-- The thirteen positions of one transfer (R112). -/
def transferMicros (x : Xfer) : List Micro := transportPhases.map (Micro.phase · x)

/-- The positions of a list of transfers. -/
def transfersMicros (xs : List Xfer) : List Micro := xs.flatMap transferMicros

/-- The value a transfer is given (R33, R176). -/
def Src.value? (src : Src) (s : State) : Option Byte :=
  match src with
  | .lit v => some v
  | .msg => s.memRead s.idx

/-- A latch update. -/
def LatchOp.apply (op : LatchOp) (s : State) : State :=
  match op with
  | .clearCnt => { s with cnt := 0 }
  | .countUp => { s with cnt := s.cnt + 1 }
  | .clearIdx => { s with idx := 0 }
  | .indexUp => { s with idx := s.idx + 1 }
  | .drop => { s with dropped := true }

/-- The latch updates in order. -/
def applyLatchOps (ops : List LatchOp) (s : State) : State := ops.foldl (fun s op => op.apply s) s

/-- The first event of a transfer loads `T_KIND` and `T_VAL` (R33), and drives RW low (R112 event 0). Between
transfers X4 allows them any value: the model keeps the last transfer's (DESIGN CHOICE, log entry 26). -/
def beginTransfer (x : Xfer) (s : State) : Result :=
  match x.src.value? s with
  | some v => .next (setPin .rw .low { s with tKind := x.kind, tVal := v })
  | none => .fault .messageOutOfRange

/-- One position of the event list (R112, R161). The levels come from `T_KIND` and `T_VAL` (R110). -/
def perform (m : Micro) (s : State) : Result :=
  match m with
  | .forceLow .en => .next (setIdleEnable .low s)
  | .forceLow sig => .next (setPin sig .low s)
  | .phase .rw x => beginTransfer x s
  | .phase .rs _ => .next (setPin .rs s.tKind.rsLevel s)
  | .phase (.d b) _ => .next (setPin (.d b) (dataLevel s.tVal b) s)
  | .phase .enh _ => .next (raiseEnable s)
  | .phase .dwell _ => .next (dwell s)
  | .phase .enl x => .next (applyLatchOps x.after (lowerEnable s))

/-- `SEQ <- AT(n+1)`, or `SEQ <- IDLE` with response `OK` when the list has `n+1` events (R23, R89).
After an operation X4 allows `CNT` and `IDX` any value: the model keeps the last counts until the next
RENDER or reset clears them (DESIGN CHOICE, log entry 26). -/
def advanceSeq (n len : Nat) (s : State) : State :=
  if n + 1 = len then { s with seq := .idle, responses := s.responses ++ [codeOk] }
  else { s with seq := .pos (n + 1) }

/-- Event number `n` of the event list `prog` (R23). -/
def performAt (prog : List Micro) (n : Nat) (s : State) : Result :=
  match prog[n]? with
  | none => .fault .sequencerOffList
  | some m =>
    match perform m s with
    | .next s' => .next (advanceSeq n prog.length s')
    | .fault r => .fault r
    | .refused r => .refused r

/-! ### Acceptance and faults -/

/-- Acceptance of a legal request word (R88): `OPREG <- W; SEQ <- AT(0)`, or `IDLE` for an empty list. -/
def accept (w : ReqWord) (prog : List Micro) (s : State) : State :=
  { s with opreg := w, seq := if prog.isEmpty then .idle else .pos 0 }

/-- A request presented to the engine: while `BUSY` = 1 it waits at the port and nothing changes (R88). -/
def request (w : ReqWord) (prog : List Micro) (s : State) : Result :=
  if s.busy then .next s else .next (accept w prog s)

/-- `raise Fault(code)` (R231): the first code is kept in `FAULT`, the response is the code, and nothing else
changes. It is no trap: nothing is saved and control goes nowhere (R238). -/
def raiseFault (code : Code) (s : State) : State :=
  { s with fault := stickyFault s.fault code, responses := s.responses ++ [code] }

/-! ### Reset -/

/-- The reset input is asserted (R260, R263): the engine takes its reset values, with no pin event; the
configuration, the controller and what the outside presents stay. A pulse cut short (EN high) may or may
not have been taken, so the observer knows nothing (V8.2; log entry 6). -/
def enterReset (s : State) : State :=
  { State.resetWith s.cfg with
    trace := []
    inReset := true
    resetIn := s.resetIn
    host := s.host
    observer := if s.pins.en = .driven .high then Observer.lost else s.observer
    drawEpoch := s.drawEpoch + 1 }

/-- The reset input is released: the eleven pins are configured as outputs (R261). -/
def releaseReset (s : State) : State := { s with inReset := false, trace := s.trace ++ cfgEvents }

/-- One engine step passes at a port where nothing can be taken: only a `quiet` entry goes by. -/
def hostTick : List HostInput → List HostInput
  | .quiet :: t => t
  | h => h

end Sys2Proof.Machine
end

