-- ==== Sys2Proof/Machine/Observer.lean ====
section
/-! DEFINITION. The bus words' meanings: what each does to the Display observer, the environment model of
the controller (44_display_observer.md R204 to R220). The passages the spec marks as general
knowledge (G1 to G6, G10) are taken as it states them: log entry 7. -/

namespace Sys2Proof.Machine

/-! ### Effects on the Display -/

/-- Set DDRAM address to a row's origin: `row <- r; col <- 0` (R204, R205). -/
def Display.origin (r : Row) (d : Display) : Display := { d with row := some r, col := some 0 }

/-- Return home: `row <- 0; col <- 0; shift <- 0`, no cell changes (R212). -/
def Display.home (d : Display) : Display := { d with row := some .top, col := some 0, shift := some 0 }

/-- `offgrid` after something happened at a column that is not known: set if it was set, else `unknown`
(R200; DEDUCED, log entry 9, safe). -/
def offgridMaybe (o : Option Bool) : Option Bool := if o = some true then some true else none

/-- Move cursor one step left (R213): `col <- col - 1`; at column 0, `offgrid` is set and `col` becomes
`unknown`. -/
def Display.left (d : Display) : Display :=
  match d.col with
  | none => { d with offgrid := offgridMaybe d.offgrid }
  | some 0 => { d with col := none, offgrid := some true }
  | some (c + 1) => { d with col := some c }

/-- Move cursor one step right (R213): `col <- col + 1`; from column 15 on the move leaves the visible
range and sets `offgrid` (R200). -/
def Display.right (d : Display) : Display :=
  match d.col with
  | none => { d with offgrid := offgridMaybe d.offgrid }
  | some c => { d with col := some (c + 1), offgrid := if COLS ≤ c + 1 then some true else d.offgrid }

/-- Shift entire display: `shift <- shift + k` (R214). -/
def Display.shiftBy (k : Int) (d : Display) : Display := { d with shift := d.shift.map (· + k) }

/-- 0x04, 0x05, 0x07: `entryMode <- unknown; shift <- unknown` (R216). -/
def Display.entryUnknown (d : Display) : Display := { d with entryMode := none, shift := none }

/-- 0x06 in CommandSet and RENDER (R215): `entryMode <- increment`; with `OBS_06_MOVES` also one step right. -/
def Display.entryIncrement (moves : Bool) (d : Display) : Display :=
  if moves then d.setIncrement.right else d.setIncrement

/-- `cell[r][c] <- v` (R206). -/
def Grid.set (g : Grid) (r : Row) (c : Nat) (v : Byte) : Grid :=
  { rows := g.rows.set r.index (g.rows[r.index].setIfInBounds c (some v)) r.index.isLt }

/-- `cell[r][c]`; `none` where it is `unknown` or no visible position (R200). -/
def Grid.get (g : Grid) (r : Row) (c : Nat) : Option Byte := g.rows[r.index][c]?.join

/-- `offgrid` after a store at column `col`: set when the column is beyond 15 (R200, R207), `unknown` when
the column is. -/
def offgridStore (col : Option Nat) (o : Option Bool) : Option Bool :=
  match col with
  | some c => if c < COLS then o else some true
  | none => offgridMaybe o

/-- A data-register write of `v` (R206, R207). With `entryMode = increment` and the pointer known, it stores
at the pointer if that is a visible column, else sets `offgrid`, and the pointer advances. If `row`,
`col` or `entryMode` is `unknown` every cell becomes `unknown` (R206). In any entry mode but
increment no rule says where the pointer goes or whether the display shifts: they become `unknown`
(R216; DEDUCED, log entry 9, safe). After 0x04, 0x05 or 0x07 and then 0x06 alone the entry mode is
increment and the shift `unknown`: R216 makes no claim about data writes until a 0x01 or 0x02 as well,
R206 asks only for `row`, `col` and `entryMode`. The model follows R206: the cell is known, and the
glass undetermined (DESIGN CHOICE, log entry 28). -/
def Display.store (v : Byte) (d : Display) : Display :=
  match d.entryMode, d.row, d.col with
  | some .increment, some r, some c =>
    if c < COLS then { d with cells := d.cells.set r c v, col := some (c + 1) }
    else { d with col := some (c + 1), offgrid := some true }
  | some .increment, _, _ =>
    { d with cells := Grid.filled none, col := d.col.map (· + 1), offgrid := offgridStore d.col d.offgrid }
  | _, _, _ =>
    { d with cells := Grid.filled none, row := none, col := none, shift := none
             offgrid := offgridMaybe (offgridStore d.col d.offgrid) }

/-- What a bus word does to the Display (R204 to R216). A request is no bus word. -/
def busEffect (moves : Bool) : Instr → Display → Display
  | .c01 => Display.clear
  | .c02 => Display.home
  | .c04 | .c05 | .c07 => Display.entryUnknown
  | .c06 => Display.entryIncrement moves
  | .c08 => Display.control false false false
  | .c0a => Display.control false true false
  | .c0c => Display.control true false false
  | .c0e => Display.control true true false
  | .c0f => Display.control true true true
  | .c10 => Display.left
  | .c14 => Display.right
  | .c18 => Display.shiftBy (-1)
  | .c1c => Display.shiftBy 1
  | .c30 | .c38 => id
  | .c80 => Display.origin .top
  | .cc0 => Display.origin .bottom
  | .data v => Display.store v
  | .init | .render _ _ _ | .wcmd _ | .wdata _ | .clr | .home | .cshl | .cshr | .dshl | .dshr
  | .doff | .doffc | .don | .donb | .mcl | .mcr | .sdl | .sdr | .row0 | .row1 => id

/-- The observer's step on any bus word (R202, R217), for claims over a transfer trace. -/
def Observer.step (moves : Bool) (o : Observer) (w : BusWord) : Observer :=
  match decodeBus w with
  | .ok i => o.take w (busEffect moves i)
  | .error _ => Observer.lost

/-- The observer over a transfer trace, in order (R203). -/
def Observer.steps (moves : Bool) (o : Observer) (ws : List BusWord) : Observer :=
  ws.foldl (Observer.step moves) o

/-! ### What is on the glass -/

/-- What a position of the glass shows (R220). -/
inductive Glass
  /-- The display is off: nothing is shown. -/
  | dark
  /-- The glyph the controller's character table gives for this code. -/
  | code (v : Byte)
  /-- Not determined by the spec (R207, R214, U1). -/
  | undetermined
  deriving DecidableEq, Repr

/-- The glass at `(r, c)` (R220): a code is shown when the display is on, unshifted and never left the
grid; a display that is off shows nothing. -/
def Display.glass (d : Display) (r : Row) (c : Nat) : Glass :=
  match d.displayEnabled with
  | some false => .dark
  | some true =>
    if d.shift = some 0 ∧ d.offgrid = some false then
      match d.cells.get r c with
      | some v => .code v
      | none => .undetermined
    else .undetermined
  | none => .undetermined

/-! ### The meanings -/

/-- `C(0x01)`, Clear display (R211). -/
def execC01 (s : State) : Result := .next (observe 0x001 Display.clear s)

/-- `C(0x02)`, Return home (R212). -/
def execC02 (s : State) : Result := .next (observe 0x002 Display.home s)

/-- `C(0x04)`, Cursor shift left, auto-increment (R216). -/
def execC04 (s : State) : Result := .next (observe 0x004 Display.entryUnknown s)

/-- `C(0x05)`, Display shift right (R216). -/
def execC05 (s : State) : Result := .next (observe 0x005 Display.entryUnknown s)

/-- `C(0x06)`, entry mode increment, or cursor shift right (R215); the one that ends an initialization trace is
`Observer.take`'s. -/
def execC06 (s : State) : Result := .next (observe 0x006 (Display.entryIncrement s.cfg.obs06Moves) s)

/-- `C(0x07)`, Display shift left (R216). -/
def execC07 (s : State) : Result := .next (observe 0x007 Display.entryUnknown s)

/-- `C(0x08)`, Display off, cursor off (R209). -/
def execC08 (s : State) : Result := .next (observe 0x008 (Display.control false false false) s)

/-- `C(0x0A)`, Display off, cursor on (R209). -/
def execC0a (s : State) : Result := .next (observe 0x00A (Display.control false true false) s)

/-- `C(0x0C)`, Display on, cursor off (R209). -/
def execC0c (s : State) : Result := .next (observe 0x00C (Display.control true false false) s)

/-- `C(0x0E)`: display on, cursor on, blink off (R210). -/
def execC0e (s : State) : Result := .next (observe 0x00E (Display.control true true false) s)

/-- `C(0x0F)`: display on, cursor on, blink on (R210). -/
def execC0f (s : State) : Result := .next (observe 0x00F (Display.control true true true) s)

/-- `C(0x10)`, Move cursor one step left (R213). -/
def execC10 (s : State) : Result := .next (observe 0x010 Display.left s)

/-- `C(0x14)`, Move cursor one step right (R213). -/
def execC14 (s : State) : Result := .next (observe 0x014 Display.right s)

/-- `C(0x18)`, Shift entire display left (R214). -/
def execC18 (s : State) : Result := .next (observe 0x018 (Display.shiftBy (-1)) s)

/-- `C(0x1C)`, Shift entire display right (R214). -/
def execC1c (s : State) : Result := .next (observe 0x01C (Display.shiftBy 1) s)

/-- `C(0x30)`, function set, 8-bit: no Display field changes (R208). -/
def execC30 (s : State) : Result := .next (observe 0x030 id s)

/-- `C(0x38)`, function set: no Display field changes (R208). -/
def execC38 (s : State) : Result := .next (observe 0x038 id s)

/-- `C(0x80)`, Set DDRAM address to row-0 origin (R204). -/
def execC80 (s : State) : Result := .next (observe 0x080 (Display.origin .top) s)

/-- `C(0xC0)`, Set DDRAM address to row-1 origin (R205). -/
def execCc0 (s : State) : Result := .next (observe 0x0C0 (Display.origin .bottom) s)

/-- `D(v)`, data-register write (R206, R207). -/
def execData (v : Byte) (s : State) : Result := .next (observe (dataWord v) (Display.store v) s)

end Sys2Proof.Machine
end

