-- ==== Sys2Proof/Machine/CommandSet.lean ====
section
/-! DEFINITION. CommandSet: the sixteen fixed operations (41_commandset.md R130 to R146). The meaning of
each for the engine is the byte or bytes it emits and nothing more (R130). -/

namespace Sys2Proof.Machine

/-- The event list of `CLR`: `Xfer(COMMAND, 0x01)` (R131). -/
def clrProgram : List Micro := transfersMicros [cmd 0x01]

/-- `CLR`, Clear display (R131). -/
def execClr (s : State) : Result := request (wordN 0b10000) clrProgram s

/-- The event list of `HOME`: `Xfer(COMMAND, 0x02)` (R132). -/
def homeProgram : List Micro := transfersMicros [cmd 0x02]

/-- `HOME`, Return home (R132). -/
def execHome (s : State) : Result := request (wordN 0b10001) homeProgram s

/-- The event list of `CSHL`: `Xfer(COMMAND, 0x04)` (R133). -/
def cshlProgram : List Micro := transfersMicros [cmd 0x04]

/-- `CSHL`, Cursor shift left, auto-increment (R133). -/
def execCshl (s : State) : Result := request (wordN 0b10010) cshlProgram s

/-- The event list of `CSHR`: `Xfer(COMMAND, 0x06)` (R134). -/
def cshrProgram : List Micro := transfersMicros [cmd 0x06]

/-- `CSHR`, Cursor shift right, auto-increment (R134). -/
def execCshr (s : State) : Result := request (wordN 0b10011) cshrProgram s

/-- The event list of `DSHL`: `Xfer(COMMAND, 0x07)` (R135). -/
def dshlProgram : List Micro := transfersMicros [cmd 0x07]

/-- `DSHL`, Display shift left (R135). -/
def execDshl (s : State) : Result := request (wordN 0b10100) dshlProgram s

/-- The event list of `DSHR`: `Xfer(COMMAND, 0x05)` (R136). -/
def dshrProgram : List Micro := transfersMicros [cmd 0x05]

/-- `DSHR`, Display shift right (R136). -/
def execDshr (s : State) : Result := request (wordN 0b10101) dshrProgram s

/-- The event list of `DOFF`: `Xfer(COMMAND, 0x08)` (R137). -/
def doffProgram : List Micro := transfersMicros [cmd 0x08]

/-- `DOFF`, Display off, cursor off (R137). -/
def execDoff (s : State) : Result := request (wordN 0b10110) doffProgram s

/-- The event list of `DOFFC`: `Xfer(COMMAND, 0x0A)` (R138). -/
def doffcProgram : List Micro := transfersMicros [cmd 0x0A]

/-- `DOFFC`, Display off, cursor on (R138). -/
def execDoffc (s : State) : Result := request (wordN 0b10111) doffcProgram s

/-- The event list of `DON`: `Xfer(COMMAND, 0x0C)` (R139). -/
def donProgram : List Micro := transfersMicros [cmd 0x0C]

/-- `DON`, Display on, cursor off (R139). -/
def execDon (s : State) : Result := request (wordN 0b11000) donProgram s

/-- The event list of `DONB`: `Xfer(COMMAND, 0x0E); Xfer(COMMAND, 0x0F)` (R140). -/
def donbProgram : List Micro := transfersMicros [cmd 0x0E, cmd 0x0F]

/-- `DONB`, Display on, cursor blink: two command bytes in one request (R140). -/
def execDonb (s : State) : Result := request (wordN 0b11001) donbProgram s

/-- The event list of `MCL`: `Xfer(COMMAND, 0x10)` (R141). -/
def mclProgram : List Micro := transfersMicros [cmd 0x10]

/-- `MCL`, Move cursor one step left (R141). -/
def execMcl (s : State) : Result := request (wordN 0b11010) mclProgram s

/-- The event list of `MCR`: `Xfer(COMMAND, 0x14)` (R142). -/
def mcrProgram : List Micro := transfersMicros [cmd 0x14]

/-- `MCR`, Move cursor one step right (R142). -/
def execMcr (s : State) : Result := request (wordN 0b11011) mcrProgram s

/-- The event list of `SDL`: `Xfer(COMMAND, 0x18)` (R143). -/
def sdlProgram : List Micro := transfersMicros [cmd 0x18]

/-- `SDL`, Shift entire display left (R143). -/
def execSdl (s : State) : Result := request (wordN 0b11100) sdlProgram s

/-- The event list of `SDR`: `Xfer(COMMAND, 0x1C)` (R144). -/
def sdrProgram : List Micro := transfersMicros [cmd 0x1C]

/-- `SDR`, Shift entire display right (R144). -/
def execSdr (s : State) : Result := request (wordN 0b11101) sdrProgram s

/-- The event list of `ROW0`: `Xfer(COMMAND, 0x80)` (R145). -/
def row0Program : List Micro := transfersMicros [cmd 0x80]

/-- `ROW0`, Set DDRAM address to row-0 origin (R145). -/
def execRow0 (s : State) : Result := request (wordN 0b11110) row0Program s

/-- The event list of `ROW1`: `Xfer(COMMAND, 0xC0)` (R146). -/
def row1Program : List Micro := transfersMicros [cmd 0xC0]

/-- `ROW1`, Set DDRAM address to row-1 origin (R146). -/
def execRow1 (s : State) : Result := request (wordN 0b11111) row1Program s

end Sys2Proof.Machine
end

