-- ==== Sys2Proof/Machine/Initialization.lean ====
section
/-! DEFINITION. InitializationSequence: the initialization FSM (42_init.md R160 to R169). -/

namespace Sys2Proof.Machine

/-- Step 1: `Set(RS, LOW); Set(RW, LOW); Set(EN, LOW)` (R161). -/
def initStep1 : List Micro := [.forceLow .rs, .forceLow .rw, .forceLow .en]

/-- Steps 2 to 6: the bytes 0x30 three times, 0x38, 0x08, 0x01, 0x06 (R162 to R166). -/
def initBytes : List Byte := List.replicate INIT_WAKE_COUNT 0x30 ++ [0x38, 0x08, 0x01, 0x06]

/-- The event list of `INIT` (R160): 3 + 7·13 = 94 positions. -/
def initProgram : List Micro := initStep1 ++ transfersMicros (initBytes.map (cmd ·))

/-- `INIT` (R160). Nothing records that it has run, and it may be repeated (R169). -/
def execInit (s : State) : Result := request (wordN 0b00001) initProgram s

end Sys2Proof.Machine
end

