-- ==== Sys2Proof/Machine/Layout.lean ====
section
/-! DEFINITION. TextLayoutEngine: `RENDER` (43_render.md R170 to R186), both documented defects kept. -/

namespace Sys2Proof.Machine

/-- The clear phase (R172): the requested origin, then row 0's origin unconditionally (R173), `CNT <- 0`,
then fifteen times a blank and an advance. -/
def clearPhase (origin : Byte) : List Xfer :=
  [cmd origin, cmd ROW0_ORIGIN [.clearCnt]]
    ++ (List.replicate CLEAR_COUNT [dat SPACE, cmd ADVANCE_OP [.countUp]]).flatten

/-- `IDX <- 0` when the message phase begins, which is after the last of `left` more advances (R171). -/
def startMessage (left : Nat) : List LatchOp := if left = 0 then [.clearIdx] else []

/-- The reselect phase (R174): `C(origin)`, `CNT <- 0`. -/
def reselectPhase (origin : Byte) (advances : Nat) : List Xfer :=
  [cmd origin (.clearCnt :: startMessage advances)]

/-- The advance phase (R175): as many `C(0x06)`, `CNT <- CNT + 1` after each. -/
def advancePhase : Nat → List Xfer
  | 0 => []
  | left + 1 => cmd ADVANCE_OP (.countUp :: startMessage left) :: advancePhase left

/-- The row jump: `C(0xC0)`, `DROPPED <- 1` (R177). -/
def rowJump : Xfer := cmd ROW1_ORIGIN [.drop]

/-- One character: `D(MemRead(MSG, IDX, 1))`, `IDX <- IDX + 1` (R176). -/
def character : Xfer := { kind := .data, src := .msg, after := [.indexUp] }

/-- The message phase (R176, R177) for `left` more characters from index `idx`: the jump comes before the
character when `IDX > 15` and `DROPPED = 0`. -/
def messagePhase : (left idx : Nat) → (dropped : Bool) → List Xfer
  | 0, _, _ => []
  | left + 1, idx, dropped =>
    if WRAP_LIMIT < idx && !dropped then rowJump :: character :: messagePhase left (idx + 1) true
    else character :: messagePhase left (idx + 1) dropped

/-- The transfers of a RENDER of a message of `len` bytes (R171). -/
def renderXfers (clearRow : Bool) (row : Row) (startColumn : StartCol) (len : Nat) : List Xfer :=
  (if clearRow then clearPhase (rowOrigin row) else [])
    ++ reselectPhase (rowOrigin row) (advanceCount startColumn)
    ++ advancePhase (advanceCount startColumn)
    ++ messagePhase len 0 false

/-- The event list of a RENDER. -/
def renderProgram (clearRow : Bool) (row : Row) (startColumn : StartCol) (len : Nat) : List Micro :=
  transfersMicros (renderXfers clearRow row startColumn len)

/-- The latches a RENDER takes at acceptance: `R_LEN <- MSG_LEN`, `DROPPED <- 0`, `CNT <- 0`, `IDX <- 0`
(R88). -/
def renderLatches (s : State) : State :=
  { s with rLen := s.msgLen, dropped := false, cnt := 0, idx := 0 }

/-- `RENDER` (R170). A length beyond `MSG_CAP` raises `Fault(2)` at acceptance (R92). -/
def execRender (clearRow : Bool) (row : Row) (startColumn : StartCol) (s : State) : Result :=
  if s.busy then .next s
  else if s.cfg.msgCap < s.msgLen then .next (raiseFault codeLengthRange s)
  else request (wordR 0b00010 clearRow row startColumn)
    (renderProgram clearRow row startColumn s.msgLen) (renderLatches s)

end Sys2Proof.Machine
end

