-- ==== Sys2Proof/Machine/Transport.lean ====
section
/-! DEFINITION. ParallelTransport: the raw transfers `WCMD` and `WDATA` (40_transport.md R120, R121). -/

namespace Sys2Proof.Machine

/-- The event list of `WCMD v`: `Xfer(COMMAND, v)` (R120). -/
def wcmdProgram (v : Byte) : List Micro := transfersMicros [cmd v]

/-- The event list of `WDATA v`: `Xfer(DATA, v)` (R121). -/
def wdataProgram (v : Byte) : List Micro := transfersMicros [dat v]

/-- `WCMD v` (R120): every byte is accepted and sent unchanged. -/
def execWcmd (v : Byte) (s : State) : Result := request (wordW 0b00011 v) (wcmdProgram v) s

/-- `WDATA v` (R121). -/
def execWdata (v : Byte) (s : State) : Result := request (wordW 0b00100 v) (wdataProgram v) s

end Sys2Proof.Machine
end

