-- ==== Sys2Proof/Machine/Sequencer.lean ====
section
/-! DEFINITION. The event list of the request in `OPREG` (10_state.md R23). -/

namespace Sys2Proof.Machine

/-- `Events(request)` with what the sequencer does at each (R23), for a RENDER of `rLen` characters. A bus
word is no request and has none. -/
def programOf (rLen : Nat) : Instr → List Micro
  | .init => initProgram
  | .render c r col => renderProgram c r col rLen
  | .wcmd v => wcmdProgram v
  | .wdata v => wdataProgram v
  | .clr => clrProgram
  | .home => homeProgram
  | .cshl => cshlProgram
  | .cshr => cshrProgram
  | .dshl => dshlProgram
  | .dshr => dshrProgram
  | .doff => doffProgram
  | .doffc => doffcProgram
  | .don => donProgram
  | .donb => donbProgram
  | .mcl => mclProgram
  | .mcr => mcrProgram
  | .sdl => sdlProgram
  | .sdr => sdrProgram
  | .row0 => row0Program
  | .row1 => row1Program
  | .c01 | .c02 | .c04 | .c05 | .c06 | .c07 | .c08 | .c0a | .c0c | .c0e | .c0f | .c10 | .c14
  | .c18 | .c1c | .c30 | .c38 | .c80 | .cc0 | .data _ => []

/-- The event list of the current request; the fields of the word are read from `OPREG` for the whole
operation (R32). -/
def State.program (s : State) : List Micro :=
  match decodeRequest s.opreg with
  | .ok i => programOf s.rLen i
  | .error _ => []

end Sys2Proof.Machine
end

