-- ==== Sys2Proof/Machine/Dispatch.lean ====
section
/-! DEFINITION. exec: one arm per constructor of Instr. The first twenty are requests (30_encoding.md R85),
the last twenty bus words (R82, R83). -/

namespace Sys2Proof.Machine

def exec (i : Instr) (s : State) : Host.Outcome State Fault Refusal :=
  match i with
  | .init => Sys2Proof.Machine.execInit s
  | .render c r col => Sys2Proof.Machine.execRender c r col s
  | .wcmd v => Sys2Proof.Machine.execWcmd v s
  | .wdata v => Sys2Proof.Machine.execWdata v s
  | .clr => Sys2Proof.Machine.execClr s
  | .home => Sys2Proof.Machine.execHome s
  | .cshl => Sys2Proof.Machine.execCshl s
  | .cshr => Sys2Proof.Machine.execCshr s
  | .dshl => Sys2Proof.Machine.execDshl s
  | .dshr => Sys2Proof.Machine.execDshr s
  | .doff => Sys2Proof.Machine.execDoff s
  | .doffc => Sys2Proof.Machine.execDoffc s
  | .don => Sys2Proof.Machine.execDon s
  | .donb => Sys2Proof.Machine.execDonb s
  | .mcl => Sys2Proof.Machine.execMcl s
  | .mcr => Sys2Proof.Machine.execMcr s
  | .sdl => Sys2Proof.Machine.execSdl s
  | .sdr => Sys2Proof.Machine.execSdr s
  | .row0 => Sys2Proof.Machine.execRow0 s
  | .row1 => Sys2Proof.Machine.execRow1 s
  | .c01 => Sys2Proof.Machine.execC01 s
  | .c02 => Sys2Proof.Machine.execC02 s
  | .c04 => Sys2Proof.Machine.execC04 s
  | .c05 => Sys2Proof.Machine.execC05 s
  | .c06 => Sys2Proof.Machine.execC06 s
  | .c07 => Sys2Proof.Machine.execC07 s
  | .c08 => Sys2Proof.Machine.execC08 s
  | .c0a => Sys2Proof.Machine.execC0a s
  | .c0c => Sys2Proof.Machine.execC0c s
  | .c0e => Sys2Proof.Machine.execC0e s
  | .c0f => Sys2Proof.Machine.execC0f s
  | .c10 => Sys2Proof.Machine.execC10 s
  | .c14 => Sys2Proof.Machine.execC14 s
  | .c18 => Sys2Proof.Machine.execC18 s
  | .c1c => Sys2Proof.Machine.execC1c s
  | .c30 => Sys2Proof.Machine.execC30 s
  | .c38 => Sys2Proof.Machine.execC38 s
  | .c80 => Sys2Proof.Machine.execC80 s
  | .cc0 => Sys2Proof.Machine.execCc0 s
  | .data v => Sys2Proof.Machine.execData v s

end Sys2Proof.Machine
end

