-- ==== Sys2Proof/Machine/Ports.lean ====
section
/-! DEFINITION. What one step of the machine does, by who moves: the reset input (70_reset_and_hazards.md
R260, R261), the sequencer (10_state.md R23), the host at the port (30_encoding.md R88, 20_memory.md
R53, 60_exceptions.md R237) and the observer (44_display_observer.md R202). -/

namespace Sys2Proof.Machine

/-- A request word at the port of the idle engine: decoded at once (R88); an illegal word raises `Fault(1)`
(R90), and this check comes before the length check of a RENDER (R233). -/
def presentWord (w : ReqWord) (s : State) : Result :=
  match decodeRequest w with
  | .ok i => exec i s
  | .error _ => .next (raiseFault codeIllegalRequest s)

/-- The host's turn while the engine is idle. A write presented together with a request takes effect first
and the request sees it (R237 (c)). -/
def hostTurn (s : State) : Result :=
  match s.host with
  | [] => .next s
  | .quiet :: t => .next { s with host := t }
  | .write h :: t => .next (hostWrite h { s with host := t })
  | .request w :: t => presentWord w { s with host := t }
  | .both h w :: t => presentWord w (hostWrite h { s with host := t })

/-- The sequencer's turn at position `n` (R23); the host is held off (R26, R53, R88). -/
def sequencerTurn (n : Nat) (s : State) : Result :=
  performAt s.program n { s with host := hostTick s.host }

/-- The engine's step with the reset input released. The step in which the input falls configures the pins,
before any request can be accepted (R261). -/
def engineTurn (s : State) : Result :=
  if s.inReset then .next (releaseReset s)
  else match s.seq with
    | .pos n => sequencerTurn n s
    | .idle => hostTurn s

/-- The engine's step: reset wins over everything (R237 (a), R260). -/
def portTurn (s : State) : Result :=
  match s.resetIn with
  | true :: t => .next (enterReset { s with resetIn := t })
  | false :: t => engineTurn { s with resetIn := t }
  | [] => engineTurn s

/-- The observer's step on the bus word of the pulse in progress (R202); a word that has no row has no rule
(R217). -/
def observerTurn (w : BusWord) (s : State) : Result :=
  match decodeBus w with
  | .ok i => exec i { s with strobe := none }
  | .error _ => .next (observeOther s)

end Sys2Proof.Machine
end

