-- ==== Sys2Proof/Machine/Step.lean ====
section
/-! DEFINITION. step: the controller takes the pulse in progress, or else the engine moves. -/

namespace Sys2Proof.Machine

/-- One step. A configuration outside the legal values is refused (R30). While a pulse's bus word is still to
be taken the observer moves; otherwise the engine does, one pin event or one acceptance at a time. -/
def step (s : State) : Host.Outcome State Fault Refusal :=
  if s.cfg.wf then
    match s.strobe with
    | some w => observerTurn w s
    | none => portTurn s
  else .refused .badConfiguration

/-- `s` with a word of the opcode table stored where the next step fetches: a bus word as that of the pulse
in progress, any other word as the request presented to the idle engine (log entry 5). -/
def State.withFetchWord (s : State) (nbits w : Nat) : State :=
  match tableSpace nbits w, decodeTableWord nbits w with
  | .bus, some _ => { s with strobe := some (BitVec.ofNat 10 w) }
  | _, _ =>
    { s with strobe := none, resetIn := [], inReset := false, seq := .idle
             host := .request (BitVec.ofNat 16 w) :: s.host }

end Sys2Proof.Machine
end

