-- ==== Sys2Proof/Machine/Trace.lean ====
section
/-! DEFINITION. The observation of the block (00_scope.md R9): the events of a transfer and of each
operation as the rules list them, the transfer trace, the pin transitions, and the GPIO calls. -/

namespace Sys2Proof.Machine

/-- A transfer as a claim sees it, `C(v)` or `D(v)` (R9, R12). -/
structure Transfer where
  kind : Kind
  val : Byte
  deriving DecidableEq, Repr

/-- `C(v)`. -/
def Transfer.c (v : Byte) : Transfer := { kind := .command, val := v }

/-- `D(v)`. -/
def Transfer.d (v : Byte) : Transfer := { kind := .data, val := v }

/-- The bus word of a transfer (R80). -/
def Transfer.word (t : Transfer) : BusWord :=
  match t.kind with
  | .command => commandWord t.val
  | .data => dataWord t.val

/-- The thirteen events of a transfer (R112). -/
def Transfer.events (ms : Nat) (t : Transfer) : List PinEvent :=
  [.set .rw .low, .set .rs t.kind.rsLevel,
   .set (.d 7) (dataLevel t.val 7), .set (.d 6) (dataLevel t.val 6), .set (.d 5) (dataLevel t.val 5),
   .set (.d 4) (dataLevel t.val 4), .set (.d 3) (dataLevel t.val 3), .set (.d 2) (dataLevel t.val 2),
   .set (.d 1) (dataLevel t.val 1), .set (.d 0) (dataLevel t.val 0),
   .set .en .high, .dwell ms, .set .en .low]

/-- The events of a list of transfers, in order. -/
def transferEvents (ms : Nat) (ts : List Transfer) : List PinEvent := ts.flatMap (Transfer.events ms)

/-- The latches after a transfer: RW and EN low, RS by the kind, the data lines the value (R112; V2.6). -/
def Transfer.latches (t : Transfer) : PinLatches :=
  { rs := .driven t.kind.rsLevel, rw := .driven .low, en := .driven .low
    d := Vector.ofFn fun b => .driven (dataLevel t.val b) }

/-- The observer after a transfer that began with the latch `en` (R118, R202): it takes the bus word, blind
unless EN was low. -/
def Transfer.observed (moves : Bool) (en : Latch) (o : Observer) (t : Transfer) : Observer :=
  (if en = .driven .low then o else Observer.blinded).step moves t.word

/-- The observer that hears the first transfer of a request: what it knew, or nothing of the first pulse
unless EN was low (R118, R272; log entry 11). -/
def State.hearer (s : State) : Observer :=
  if s.pins.en = .driven .low then s.observer else Observer.blinded

/-- The fifteen CommandSet operations of one command byte, each with its request word and its byte as R85 and
R131 to R146 give them. -/
def oneByteCommands : List (Instr × ReqWord × Byte) :=
  [(.clr, 0x8000, 0x01), (.home, 0x8800, 0x02), (.cshl, 0x9000, 0x04), (.cshr, 0x9800, 0x06),
   (.dshl, 0xA000, 0x07), (.dshr, 0xA800, 0x05), (.doff, 0xB000, 0x08), (.doffc, 0xB800, 0x0A)]
    ++ [(.don, 0xC000, 0x0C), (.mcl, 0xD000, 0x10), (.mcr, 0xD800, 0x14), (.sdl, 0xE000, 0x18),
   (.sdr, 0xE800, 0x1C), (.row0, 0xF000, 0x80), (.row1, 0xF800, 0xC0)]

/-- The 94 events of `INIT` (R160). -/
def initEvents (ms : Nat) : List PinEvent :=
  [.set .rs .low, .set .rw .low, .set .en .low]
    ++ transferEvents ms (List.replicate INIT_WAKE_COUNT (.c 0x30) ++ [.c 0x38, .c 0x08, .c 0x01, .c 0x06])

/-- The transfers of a RENDER of the message `msg`, said by its phases (R172 to R177): the message's
characters up to index `WRAP_LIMIT`, then, if there are more, one row jump and the rest. -/
def renderTransfers (clearRow : Bool) (row : Row) (startColumn : StartCol) (msg : List Byte) : List Transfer :=
  (if clearRow then
      .c (rowOrigin row) :: .c ROW0_ORIGIN
        :: (List.replicate CLEAR_COUNT [Transfer.d SPACE, Transfer.c ADVANCE_OP]).flatten
    else [])
  ++ [.c (rowOrigin row)]
  ++ List.replicate startColumn.toNat (.c ADVANCE_OP)
  ++ (msg.take (WRAP_LIMIT + 1)).map .d
  ++ (if WRAP_LIMIT + 1 < msg.length then [.c ROW1_ORIGIN] else [])
  ++ (msg.drop (WRAP_LIMIT + 1)).map .d

/-- A latch file after an event. -/
def PinLatches.after (p : PinLatches) : PinEvent → PinLatches
  | .set sig lvl => p.set sig lvl
  | .dwell _ => p
  | .cfg _ => p

/-- The latches after a list of events. -/
def PinLatches.afterAll (p : PinLatches) (es : List PinEvent) : PinLatches := es.foldl PinLatches.after p

/-- The transfer trace (R9, R117): the bus word sampled at each `Dwell`, replaying a trace from the
latches `p`; a word with an undefined latch is `none`. -/
def transferTrace (p : PinLatches) : List PinEvent → List (Option BusWord)
  | [] => []
  | e :: es =>
    match e with
    | .dwell _ => p.busWord? :: transferTrace p es
    | .set sig lvl => transferTrace (p.set sig lvl) es
    | .cfg _ => transferTrace p es

/-- The narrow reading of the pin-transition sequence (R115): the `Set` events that change a latch, and the
`Dwell` events. -/
def transitions (p : PinLatches) : List PinEvent → List PinEvent
  | [] => []
  | e :: es =>
    match e with
    | .set sig lvl =>
      if p.get sig = .driven lvl then transitions (p.set sig lvl) es
      else e :: transitions (p.set sig lvl) es
    | .dwell _ => e :: transitions p es
    | .cfg _ => transitions p es

/-- The three primitives of the GPIO subsystem (R12, R243), with the physical line identifier. -/
inductive GpioCall
  /-- `configurePin(pin, OUTPUT)` -/
  | configurePin (pin : Nat)
  /-- `setPinLevel(pin, lvl)` -/
  | setPinLevel (pin : Nat) (lvl : Level)
  /-- `sleep(ms)` -/
  | sleep (ms : Nat)
  deriving DecidableEq, Repr

/-- The call an event is, through PinAssignment (R12, R57). -/
def PinEvent.call (m : PinMap) : PinEvent → GpioCall
  | .cfg sig => .configurePin (pinOf m sig)
  | .set sig lvl => .setPinLevel (pinOf m sig) lvl
  | .dwell ms => .sleep ms

/-- The GPIO calls the engine has made since reset. -/
def State.gpioCalls (s : State) : List GpioCall := s.trace.map (PinEvent.call s.cfg.pins)

/-- The assembler's `RENDER "text", col, row, clr` (R94): the host's writes, then the request word. -/
def renderCall (text : List Byte) (col : StartCol := 0) (row : Row := .top) (clr : Bool := true) :
    List HostInput :=
  (text.zipIdx.map fun (b, a) => HostInput.write (.byte a b))
    ++ [.write (.len text.length), .request (wordR 0b00010 clr row col)]

end Sys2Proof.Machine
end

