-- ==== Sys2Proof/Machine/Phases.lean ====
section
/-! DEFINITION. The hardware realisation of the sequencer as named phases (10_state.md R24): the phases of
INIT (42_init.md R168) and of RENDER (43_render.md R186, R183), which read `CNT`, `IDX`, `DROPPED`
and `R_LEN`. The event list of Sequencer.lean is the normative description; this is the second one. -/

namespace Sys2Proof.Machine

/-- The phases of INIT (R168): three for step 1, then the seven transfer phases. -/
inductive InitPhase
  | rs
  | rw
  | en
  | w1
  | w2
  | w3
  | fs
  | off
  | clr
  | em
  deriving DecidableEq, Repr

/-- The phase order of R168; `none` is `IDLE`. There is no transition other than to the next phase. -/
def InitPhase.next : InitPhase → Option InitPhase
  | .rs => some .rw
  | .rw => some .en
  | .en => some .w1
  | .w1 => some .w2
  | .w2 => some .w3
  | .w3 => some .fs
  | .fs => some .off
  | .off => some .clr
  | .clr => some .em
  | .em => none

/-- The events of a phase: one `Set` in step 1 (R161), the thirteen of a command transfer in the others
(R168). -/
def InitPhase.events (ms : Nat) : InitPhase → List PinEvent
  | .rs => [.set .rs .low]
  | .rw => [.set .rw .low]
  | .en => [.set .en .low]
  | .w1 | .w2 | .w3 => (Transfer.c 0x30).events ms
  | .fs => (Transfer.c 0x38).events ms
  | .off => (Transfer.c 0x08).events ms
  | .clr => (Transfer.c 0x01).events ms
  | .em => (Transfer.c 0x06).events ms

/-- The events from a phase on, for at most `fuel` phases. -/
def initPhaseRun (ms : Nat) : (fuel : Nat) → Option InitPhase → List PinEvent
  | 0, _ => []
  | _ + 1, none => []
  | fuel + 1, some p => p.events ms ++ initPhaseRun ms fuel p.next

/-- The transfer phases of RENDER (R186). -/
inductive RenderPhase
  | csel
  | csel0
  | cblank
  | cadv
  | sel
  | adv
  | jump
  | char
  deriving DecidableEq, Repr

/-- The latches the phases read and write (R170). -/
structure RenderRegs where
  cnt : Nat
  idx : Nat
  dropped : Bool
  deriving DecidableEq, Repr

/-- The operands, fixed for the whole operation. -/
structure RenderOperands where
  row : Row
  startColumn : Nat
  message : List Byte
  deriving DecidableEq, Repr

/-- The transfer of a phase (R186). A character index at or beyond `R_LEN` has none, and is never reached
(R52). -/
def RenderPhase.transfer (o : RenderOperands) (g : RenderRegs) : RenderPhase → Option Transfer
  | .csel => some (.c (rowOrigin o.row))
  | .csel0 => some (.c ROW0_ORIGIN)
  | .cblank => some (.d SPACE)
  | .cadv => some (.c ADVANCE_OP)
  | .sel => some (.c (rowOrigin o.row))
  | .adv => some (.c ADVANCE_OP)
  | .jump => some (.c ROW1_ORIGIN)
  | .char => o.message[g.idx]?.map .d

/-- Into the message phase or `IDLE`: the exit test `IDX = R_LEN`, then the row-jump condition (R183). -/
def enterMessage (o : RenderOperands) (g : RenderRegs) : Option RenderPhase :=
  if g.idx = o.message.length then none
  else if WRAP_LIMIT < g.idx ∧ g.dropped = false then some .jump
  else some .char

/-- Into the advance phase: the exit test `CNT = startColumn` (R183), then `IDX <- 0` and the message. -/
def enterAdvance (o : RenderOperands) (g : RenderRegs) : Option RenderPhase × RenderRegs :=
  if g.cnt = o.startColumn then (enterMessage o { g with idx := 0 }, { g with idx := 0 })
  else (some .adv, g)

/-- The next phase and the latches after a phase's transfer (R186). -/
def RenderPhase.next (o : RenderOperands) (g : RenderRegs) : RenderPhase → Option RenderPhase × RenderRegs
  | .csel => (some .csel0, g)
  | .csel0 => (some .cblank, { g with cnt := 0 })
  | .cblank => (some .cadv, g)
  | .cadv =>
    let g' := { g with cnt := g.cnt + 1 }
    (if g'.cnt = CLEAR_COUNT then some .sel else some .cblank, g')
  | .sel => enterAdvance o { g with cnt := 0 }
  | .adv => enterAdvance o { g with cnt := g.cnt + 1 }
  | .jump => (some .char, { g with dropped := true })
  | .char => (enterMessage o { g with idx := g.idx + 1 }, { g with idx := g.idx + 1 })

/-- The transfers from a phase on, for at most `fuel` phases. -/
def renderPhaseRun (o : RenderOperands) : (fuel : Nat) → Option RenderPhase → RenderRegs → List Transfer
  | 0, _, _ => []
  | _ + 1, none, _ => []
  | fuel + 1, some p, g =>
    (p.transfer o g).toList ++ renderPhaseRun o fuel (p.next o g).1 (p.next o g).2

/-- The first phase on acceptance is `R_CSEL` if `clearRow`, else `R_SEL`, with `CNT`, `IDX` and `DROPPED`
cleared (R88, R186). -/
def renderPhaseStart (clearRow : Bool) : Option RenderPhase × RenderRegs :=
  (if clearRow then some .csel else some .sel, { cnt := 0, idx := 0, dropped := false })

end Sys2Proof.Machine
end

