-- ==== Sys2Proof/Safety.lean ====
section
/-! DEFINITION. What counts as a safe run, in the terms claims use: k steps of the machine, and the invariant
under which no step stops. -/

namespace Sys2Proof.Machine

/-- `k` steps, stopping at the first fault or refusal. -/
def run : Nat → State → Result
  | 0, s => .next s
  | k + 1, s =>
    match step s with
    | .next s' => run k s'
    | .fault r => .fault r
    | .refused r => .refused r

/-- The idle engine can take a request: the configuration is legal, reset is released and stays so, and no
pulse is in progress (R30, R88, R260). -/
structure AtPort (s : State) : Prop where
  config : s.cfg.wf = true
  idle : s.seq = .idle
  released : s.inReset = false
  noReset : s.resetIn = []
  noPulse : s.strobe = none

/-- The busy engine's next step is event number `n` (R23): the same, with `SEQ = AT(n)`. -/
structure AtEvent (s : State) (n : Nat) : Prop where
  config : s.cfg.wf = true
  position : s.seq = .pos n
  released : s.inReset = false
  noReset : s.resetIn = []
  noPulse : s.strobe = none

/-- The words R90 calls illegal: `OP` reserved, or a bit that the format requires to be 0 is 1. -/
def IllegalWord (w : ReqWord) : Prop :=
  let op := (w.extractLsb' 11 5).toNat
  op = 0 ∨ (5 ≤ op ∧ op ≤ 15) ∨
  ((op = 1 ∨ 16 ≤ op) ∧ w.extractLsb' 0 11 ≠ 0) ∨
  ((op = 3 ∨ op = 4) ∧ w.extractLsb' 8 3 ≠ 0) ∨
  (op = 2 ∧ w.getLsbD 8 = true)

/-- The observer has seen a complete `INIT` trace and knows the Display as `d` (R203). -/
def State.knows (s : State) (d : Display) : Prop := s.observer.phase = .ready ∧ s.observer.display = d

/-- The pulse with the word `w` is taken and the observer's Display is `d`; nothing else changes (R202). -/
def State.shows (s : State) (w : BusWord) (d : Display) : State :=
  { s with strobe := none, observer := { phase := .ready, seen := initSeen s.observer.seen w, display := d } }

/-- The Display after the initialization trace (R221). -/
def Display.afterInit : Display :=
  { row := some .top
    col := some 0
    cells := Grid.filled (some SPACE)
    displayEnabled := some false
    cursorVisible := some false
    cursorBlinking := some false
    entryMode := some .increment
    shift := some 0
    offgrid := some false }

/-- A step that stops. -/
def Stops (r : Result) : Prop := ∀ s', r ≠ .next s'

/-- Where the sequencer is in an enable pulse (R113, R118): EN low, EN high and not yet sampled, or high and
sampled. -/
inductive Pulse
  | down
  | up
  | sampled
  deriving DecidableEq, Repr

/-- The pulse after one position of an event list. -/
def Pulse.after (p : Pulse) : Micro → Pulse
  | .forceLow .en => .down
  | .forceLow _ => p
  | .phase .enh _ => .up
  | .phase .dwell _ => .sampled
  | .phase .enl _ => .down
  | .phase _ _ => p

/-- The pulses of the rest of an event list are whole: EN is sampled only after its rise and lowered only after
the sample, and the list ends with EN low (R113, R118). -/
def pulsesWhole : Pulse → List Micro → Prop
  | p, [] => p = .down
  | p, m :: ms =>
    ((∃ x, m = .phase .dwell x) → p = .up) ∧ ((∃ x, m = .phase .enl x) → p = .sampled) ∧
    pulsesWhole (p.after m) ms

/-- `CNT` and `IDX` after latch updates that stay in their ranges, `CNT <= 255` and `IDX <= R_LEN` (R34);
`none` if one would leave its range. -/
def latchesInRange (rLen : Nat) : List LatchOp → Nat × Nat → Option (Nat × Nat)
  | [], g => some g
  | .clearCnt :: ops, g => latchesInRange rLen ops (0, g.2)
  | .countUp :: ops, g => if g.1 < 255 then latchesInRange rLen ops (g.1 + 1, g.2) else none
  | .clearIdx :: ops, g => latchesInRange rLen ops (g.1, 0)
  | .indexUp :: ops, g => if g.2 < rLen then latchesInRange rLen ops (g.1, g.2 + 1) else none
  | .drop :: ops, g => latchesInRange rLen ops g

/-- The rest of an event list, from given `CNT` and `IDX`: every message read is at an index below `R_LEN`
(R52), and no counter overflows (R34). -/
def staysInRange (rLen : Nat) : Nat × Nat → List Micro → Prop
  | _, [] => True
  | g, .phase .rw x :: ms => (x.src = .msg → g.2 < rLen) ∧ staysInRange rLen g ms
  | g, .phase .enl x :: ms => ∃ g', latchesInRange rLen x.after g = some g' ∧ staysInRange rLen g' ms
  | g, _ :: ms => staysInRange rLen g ms

/-- The sequencer is at a position of its event list from which it can go on (R23, R34, R118). -/
structure Underway (s : State) (n : Nat) (p : Pulse) : Prop where
  /-- The engine is not held in reset (R260). -/
  released : s.inReset = false
  /-- `SEQ` is a position of the list (R23). -/
  onList : n < s.program.length
  pulses : pulsesWhole p (s.program.drop n)
  range : staysInRange s.rLen (s.cnt.toNat, s.idx) (s.program.drop n)
  /-- EN is high exactly during a pulse (R118). -/
  enable : s.pins.en = .driven .high ↔ p ≠ .down
  /-- A bus word waits for the observer only during the pulse that presented it (R202). -/
  strobe : s.strobe.isSome = true → p = .sampled
  /-- The observer is blind only for the pulse that began unclean (R118). -/
  blind : s.observer.phase = .blind → p = .up ∨ s.strobe.isSome = true

/-- The invariant of the machine. -/
structure Inv (s : State) : Prop where
  /-- The configuration has legal values (R7, R29, R30). -/
  config : s.cfg.wf = true
  /-- The message memory is in its canonical form, below `MSG_CAP` (R51). -/
  memory : s.msg.wf ∧ s.msg.below s.cfg.msgCap
  /-- `MSG_LEN` fits its `LEN_W` bits, and `R_LEN` is at most `MSG_CAP` (R34, R51, R52). -/
  lengths : s.msgLen < 2 ^ s.cfg.lenW ∧ s.rLen ≤ s.cfg.msgCap
  /-- Code 3 is not used (R232, Z4). -/
  codes : s.fault ≠ 3 ∧ 3 ∉ s.responses
  /-- RW is never driven high (R21, R54, R81). -/
  writeOnly : s.pins.rw ≠ .driven .high ∧ ∀ w, s.strobe = some w → w.getLsbD 8 = false
  /-- Nothing is known of the controller before a complete `INIT` trace (R203). -/
  unknown : s.observer.phase ≠ .ready → s.observer.display = s.observer.display.forget
  /-- An idle engine has EN not high, no pulse in progress and an observer that is not blind (R118). -/
  idle : s.seq = .idle →
    s.pins.en ≠ .driven .high ∧ s.strobe = none ∧ s.observer.phase ≠ .blind
  /-- A busy engine is at a position of its list. -/
  busy : ∀ n, s.seq = .pos n → ∃ p, Underway s n p

end Sys2Proof.Machine
end

