-- ==== Sys2Proof/Certificates/Slice0/Obligations.lean ====
section
/-! DEFINITION. The statements for the provers, in the order of OBLIGATIONS.json: the encodings, acceptance and
the step, every operation to its completion, the faults, the message space, reset, the observer, and
the invariant of the machine. Where a statement rests on a choice of the model, its docstring says so. -/

section

open Sys2Proof Sys2Proof.Machine

/-! ### Encodings -/

/-- Encoding and decoding agree: every instruction of a space is read back from its word, with every operand at
every value, and from the word's two bytes with what follows them left over (R59, R80 to R87). The two bytes of a bus
word are the model's choice (log entry 27). -/
def Obligations.DecodeOfEncode : Prop :=
  ∀ (sp : Space) (i : Instr) (rest : List Byte), i.wf sp = true →
    decode (encode i) = .ok i ∧ decodeBytes sp ((encode i).bytes ++ rest) = .ok (i, rest)

/-- The other direction: a word that decodes is the word of what it decodes to, so every legal word names
exactly one operation (R91) and no two words name the same. -/
def Obligations.EncodeOfDecode : Prop :=
  ∀ (e : Encoded) (i : Instr), decode e = .ok i → encode i = e

/-- The illegal words of R90, written by their bits, are exactly those the decoder rejects. Legal are 17 of
format N, 512 of format W and 1024 of format R, 1553 in all; 0x0000 and 0xFFFF are illegal. -/
def Obligations.LegalWords : Prop :=
  (∀ w : ReqWord, (∃ i, decodeRequest w = .ok i) ↔ ¬ IllegalWord w) ∧
  Nat.card { w : ReqWord // ∃ i, decodeRequest w = .ok i } = 1553 ∧
  Nat.card { w : ReqWord // ∃ c r col, decodeRequest w = .ok (.render c r col) } = 1024 ∧
  Nat.card { w : ReqWord // ∃ v, decodeRequest w = .ok (.wcmd v) ∨ decodeRequest w = .ok (.wdata v) } = 512 ∧
  Nat.card { w : ReqWord // ¬ IllegalWord w ∧
    ((w.extractLsb' 11 5).toNat = 1 ∨ 16 ≤ (w.extractLsb' 11 5).toNat) } = 17 ∧
  IllegalWord 0x0000 ∧ IllegalWord 0xFFFF

/-- Words written out from the spec's tables decode to the instructions they stand for, and the omitted operands
of RENDER take their defaults (R82, R83, R85, R95). -/
def Obligations.SpecWordsDecode : Prop :=
  decodeRequest 0b0000100000000000 = .ok .init ∧
  decodeRequest 0b0001011011111111 = .ok (.render true .bottom 255) ∧
  decodeRequest 0b0001000000001110 = .ok (.render false .top 14) ∧
  decodeRequest 0b0001100010100101 = .ok (.wcmd 0xA5) ∧
  decodeRequest 0b0010000001000001 = .ok (.wdata 0x41) ∧
  decodeRequest 0b1100100000000000 = .ok .donb ∧
  decodeRequest 0b1111100000000000 = .ok .row1 ∧
  decodeBus 0b0000000101 = .ok .c05 ∧
  decodeBus 0b0011000000 = .ok .cc0 ∧
  decodeBus 0b1010100101 = .ok (.data 0xA5) ∧
  encode Instr.renderCall = .request 0x1400 ∧
  encode (Instr.renderCall 0x0E) = .request 0x140E ∧
  encode (Instr.renderCall 0x02 .bottom) = .request 0x1602

/-! ### Acceptance and the step -/

/-- A step of the idle engine runs the request that is presented, the host's entry gone by; a message write
presented with it takes effect first (R88, R237). -/
def Obligations.StepRunsPresentedRequest : Prop :=
  ∀ (s : State) (w : ReqWord) (i : Instr) (t : List HostInput), AtPort s → decodeRequest w = .ok i →
    (s.host = .request w :: t → step s = exec i { s with host := t }) ∧
    (∀ h : HostWrite, s.host = .both h w :: t → step s = exec i (hostWrite h { s with host := t }))

/-- A step with a bus word of a pulse in progress runs that word's row; a word that has no row leaves every field
of the Display unknown, and the observer waits for a new initialization (R202, R217; log entry 11). That
the word is taken before reset, the sequencer and the host have their turn, whatever they hold, is the
model's choice (log entry 12). -/
def Obligations.StepRunsStrobedBusWord : Prop :=
  ∀ (s : State) (w : BusWord), s.cfg.wf = true → s.strobe = some w →
    (∀ i, decodeBus w = .ok i → step s = exec i { s with strobe := none }) ∧
    ((∀ i, decodeBus w ≠ .ok i) →
      step s = .next { s with
        strobe := none, observer := { phase := .waiting, seen := 0, display := Display.unknown } })

/-- Acceptance of a legal request (R88): `OPREG <- W`, `SEQ <- AT(0)`, and for RENDER also `R_LEN <- MSG_LEN`,
`DROPPED <- 0`, `CNT <- 0`, `IDX <- 0`. Nothing else changes. -/
def Obligations.RequestAccepted : Prop :=
  ∀ (i : Instr) (w : ReqWord) (s : State), encode i = .request w → s.seq = .idle →
    ((∀ c r col, i ≠ .render c r col) → exec i s = .next { s with opreg := w, seq := .pos 0 }) ∧
    (∀ c r col, i = .render c r col → s.msgLen ≤ s.cfg.msgCap →
      exec i s = .next { s with
        opreg := w, seq := .pos 0, rLen := s.msgLen, dropped := false, cnt := 0, idx := 0 })

/-- While `BUSY` = 1 a request changes nothing and waits at the port, and so does a message write: the host's
entry is still there after the step, and the message, `MSG_LEN`, `OPREG` and `R_LEN` stay (R53, R66,
R88). That a `quiet` entry goes by is how the model's host list counts steps (log entry 12). -/
def Obligations.HeldOffWhileBusy : Prop :=
  (∀ (i : Instr) (w : ReqWord) (s : State), encode i = .request w → s.busy = true → exec i s = .next s) ∧
  (∀ (s t : State) (n : Nat), AtEvent s n → step s = .next t →
    t.opreg = s.opreg ∧ t.rLen = s.rLen ∧ t.msgLen = s.msgLen ∧ (∀ a, t.memRead a = s.memRead a) ∧
    ((∀ rest, s.host ≠ .quiet :: rest) → t.host = s.host))

/-- The sequencer (R23, R89): a step of the busy engine adds exactly one pin event and moves to the next
position, or at the last one to `IDLE` with response 0. The configuration, `FAULT`, `OPREG`, `R_LEN`
and the message space stay. -/
def Obligations.SequencerPerformsOneEvent : Prop :=
  ∀ (s t : State) (n : Nat), AtEvent s n → step s = .next t →
    (∃ e, t.trace = s.trace ++ [e]) ∧
    ((n + 1 < s.program.length ∧ t.seq = .pos (n + 1) ∧ t.responses = s.responses) ∨
     (n + 1 = s.program.length ∧ t.seq = .idle ∧ t.responses = s.responses ++ [0])) ∧
    t.cfg = s.cfg ∧ t.fault = s.fault ∧ t.opreg = s.opreg ∧ t.rLen = s.rLen ∧ t.msg = s.msg ∧
    t.msgLen = s.msgLen ∧ t.inReset = false ∧ t.drawEpoch = s.drawEpoch

/-! ### Every operation to its completion -/

/-- The fifteen CommandSet operations of one byte (R131 to R139, R141 to R146), to completion: the thirteen events of
the transfer are added to the trace, the latches hold its bus word with EN low, the response is 0, and
the engine is idle again. Nothing else changes but `OPREG` and the transfer latches, which are
meaningless between transfers (R33), and the observer, which takes the pulse; that an observer hears nothing
of a pulse that began with EN not low is the model's choice (log entry 11), in `State.hearer`. That the order
of a transfer's setup writes is fixed is log entry 15, and that `quiet` entries go by, log entry 12; that
`CNT` and `IDX` stay is the model's choice (X4, log entry 26). -/
def Obligations.OneByteCommandsComplete : Prop :=
  ∀ c ∈ oneByteCommands, ∀ s : State, AtPort s →
    encode c.1 = .request c.2.1 ∧
    ∃ u, exec c.1 s = .next { s with opreg := c.2.1, seq := .pos 0 } ∧
      run 14 { s with opreg := c.2.1, seq := .pos 0 } = .next u ∧
      u = { s with
        opreg := c.2.1
        tKind := u.tKind
        tVal := u.tVal
        pins := (Transfer.c c.2.2).latches
        trace := s.trace ++ (Transfer.c c.2.2).events s.cfg.dwellMs
        responses := s.responses ++ [0]
        host := hostTick^[13] s.host
        observer := s.hearer.step s.cfg.obs06Moves (c.2.2.setWidth 10) }

/-- `DONB` (R140): two transfers, 0x0E then 0x0F, in one request. `State.hearer` is the model's choice
of log entry 11; the order of the setup writes and the `quiet` entries are log entries 15 and 12, and that
`CNT` and `IDX` stay is log entry 26. -/
def Obligations.DonbCompletes : Prop :=
  ∀ s : State, AtPort s →
    encode .donb = .request 0xC800 ∧
    ∃ u, exec .donb s = .next { s with opreg := 0xC800, seq := .pos 0 } ∧
      run 28 { s with opreg := 0xC800, seq := .pos 0 } = .next u ∧
      u = { s with
        opreg := 0xC800
        tKind := u.tKind
        tVal := u.tVal
        pins := (Transfer.c 0x0F).latches
        trace := s.trace ++ (Transfer.c 0x0E).events s.cfg.dwellMs ++ (Transfer.c 0x0F).events s.cfg.dwellMs
        responses := s.responses ++ [0]
        host := hostTick^[26] s.host
        observer := s.hearer.steps s.cfg.obs06Moves [0x00E, 0x00F] }

/-- `WCMD v` and `WDATA v` (R120, R121): one transfer of `v` unchanged, for every byte, RS low or high.
`State.hearer` is the model's choice of log entry 11; the order of the setup writes and the `quiet`
entries are log entries 15 and 12, and that `CNT` and `IDX` stay is log entry 26. -/
def Obligations.RawTransfersComplete : Prop :=
  ∀ (s : State) (v : Byte), AtPort s →
    (∃ u, exec (.wcmd v) s = .next { s with opreg := 0x1800 + v.setWidth 16, seq := .pos 0 } ∧
      run 14 { s with opreg := 0x1800 + v.setWidth 16, seq := .pos 0 } = .next u ∧
      u = { s with
        opreg := 0x1800 + v.setWidth 16
        tKind := u.tKind
        tVal := u.tVal
        pins := (Transfer.c v).latches
        trace := s.trace ++ (Transfer.c v).events s.cfg.dwellMs
        responses := s.responses ++ [0]
        host := hostTick^[13] s.host
        observer := s.hearer.step s.cfg.obs06Moves (v.setWidth 10) }) ∧
    (∃ u, exec (.wdata v) s = .next { s with opreg := 0x2000 + v.setWidth 16, seq := .pos 0 } ∧
      run 14 { s with opreg := 0x2000 + v.setWidth 16, seq := .pos 0 } = .next u ∧
      u = { s with
        opreg := 0x2000 + v.setWidth 16
        tKind := u.tKind
        tVal := u.tVal
        pins := (Transfer.d v).latches
        trace := s.trace ++ (Transfer.d v).events s.cfg.dwellMs
        responses := s.responses ++ [0]
        host := hostTick^[13] s.host
        observer := s.hearer.step s.cfg.obs06Moves (0x200 + v.setWidth 10) })

/-- `INIT` (R160, R169): its 94 events, always, with response 0; the latches hold 0x06 with RS, RW and EN low; no
latch but `OPREG`, the pins and the transfer latches changes. What the observer makes of a step 1 that
may be a strobe (R272) is nothing, the model's choice of log entry 11; the order of the
setup writes and of step 1, and the `quiet` entries, are log entries 15 and 12, and that `CNT` and `IDX`
stay is log entry 26. -/
def Obligations.InitCompletes : Prop :=
  ∀ s : State, AtPort s →
    encode .init = .request 0x0800 ∧
    ∃ u, exec .init s = .next { s with opreg := 0x0800, seq := .pos 0 } ∧
      run 101 { s with opreg := 0x0800, seq := .pos 0 } = .next u ∧
      u = { s with
        opreg := 0x0800
        tKind := u.tKind
        tVal := u.tVal
        pins := (Transfer.c 0x06).latches
        trace := s.trace ++ initEvents s.cfg.dwellMs
        responses := s.responses ++ [0]
        host := hostTick^[94] s.host
        observer := (if s.pins.en = .driven .low then s.observer else Observer.lost).steps
          s.cfg.obs06Moves [0x030, 0x030, 0x030, 0x038, 0x008, 0x001, 0x006] } ∧
      (initEvents s.cfg.dwellMs).length = 94

/-- `RENDER` (R170 to R179): the transfers of its phases in order, the clear phase that always blanks row 0 and the
row jump to row 1 before the seventeenth character included, for every message, column, row and
clearRow; `DROPPED` is 1 exactly when `R_LEN > 16`. `CNT`, `IDX` and the transfer latches are left
open, which nothing observes (X4). The message may hold bytes no one wrote: any values.
`State.hearer` is the model's choice of log entry 11; the order of the setup writes and the `quiet`
entries are log entries 15 and 12. -/
def Obligations.RenderCompletes : Prop :=
  ∀ (s : State) (c : Bool) (r : Row) (col : StartCol), AtPort s → s.msgLen ≤ s.cfg.msgCap →
    ∃ t u, exec (.render c r col) s = .next t ∧
      t = { s with
        opreg := wordR 0b00010 c r col, seq := .pos 0, rLen := s.msgLen, dropped := false, cnt := 0, idx := 0 } ∧
      run (14 * (renderTransfers c r col (s.message s.msgLen)).length) t = .next u ∧
      u = { s with
        opreg := wordR 0b00010 c r col
        rLen := s.msgLen
        tKind := u.tKind
        tVal := u.tVal
        cnt := u.cnt
        idx := u.idx
        dropped := decide (16 < s.msgLen)
        pins := ((renderTransfers c r col (s.message s.msgLen)).getLast?.map Transfer.latches).getD s.pins
        trace := s.trace ++ transferEvents s.cfg.dwellMs (renderTransfers c r col (s.message s.msgLen))
        responses := s.responses ++ [0]
        host := hostTick^[13 * (renderTransfers c r col (s.message s.msgLen)).length] s.host
        observer := s.hearer.steps s.cfg.obs06Moves
          ((renderTransfers c r col (s.message s.msgLen)).map Transfer.word) }

/-- The event list of a RENDER is a function of its operands and the message alone (R180): from any two states, with
whatever came before, equal arguments add equal events (the wide reading). The level changes (the narrow
reading) can differ between two starts in the first transfer's thirteen events only. -/
def Obligations.RenderIdempotent : Prop :=
  (∀ (s s' : State) (c : Bool) (r : Row) (col : StartCol), AtPort s → AtPort s' →
    s.cfg.dwellMs = s'.cfg.dwellMs → s.msgLen = s'.msgLen → s.msgLen ≤ s.cfg.msgCap →
    s'.msgLen ≤ s'.cfg.msgCap → s.message s.msgLen = s'.message s'.msgLen →
    ∃ es k t t' u u', exec (.render c r col) s = .next t ∧ exec (.render c r col) s' = .next t' ∧
      run k t = .next u ∧ run k t' = .next u' ∧ u.seq = .idle ∧ u'.seq = .idle ∧
      u.trace = s.trace ++ es ∧ u'.trace = s'.trace ++ es) ∧
  (∀ (ms : Nat) (c : Bool) (r : Row) (col : StartCol) (msg : List Byte),
    ∃ later, ∀ p : PinLatches,
      transitions p (transferEvents ms (renderTransfers c r col msg)) =
        transitions p ((Transfer.c (rowOrigin r)).events ms) ++ later)

/-- The number of transfers of a RENDER, and thirteen times as many events (R182); the smallest is `C(origin)`. -/
def Obligations.RenderTransferCount : Prop :=
  (∀ (c : Bool) (r : Row) (col : StartCol) (len : Nat),
    (renderXfers c r col len).length =
      (if c then 32 else 0) + 1 + col.toNat + len + (if 16 < len then 1 else 0) ∧
    (renderProgram c r col len).length = 13 * (renderXfers c r col len).length) ∧
  (∀ r : Row, renderTransfers false r 0 [] = [.c (match r with | .top => 0x80 | .bottom => 0xC0)])

/-- The row jump (R177): in the message phase the characters 0 to 15 come with no jump, one `C(0xC0)` that sets
`DROPPED` comes immediately before the character of index 16, and there is no other, whatever the row
and the start column. -/
def Obligations.RowJumpOnce : Prop :=
  ∀ len : Nat, messagePhase len 0 false =
    if len ≤ 16 then List.replicate len character
    else List.replicate 16 character ++ rowJump :: List.replicate (len - 16) character

/-- The named phases of INIT (R168) give the events of its event list. -/
def Obligations.InitPhasesAgree : Prop :=
  ∀ ms : Nat, initPhaseRun ms 10 (some .rs) = initEvents ms

/-- The named phases of RENDER, which read `CNT`, `IDX`, `DROPPED` and `R_LEN` (R183, R186), give the transfers of its
event list: the two descriptions are equivalent (R24). -/
def Obligations.RenderPhasesAgree : Prop :=
  ∀ (c : Bool) (r : Row) (col : StartCol) (msg : List Byte) (fuel : Nat),
    (renderTransfers c r col msg).length ≤ fuel →
    renderPhaseRun { row := r, startColumn := col.toNat, message := msg } fuel
      (renderPhaseStart c).1 (renderPhaseStart c).2 = renderTransfers c r col msg

/-- The sampled bus word (R117, R80): whatever the latches held, the one word of a transfer is `v` for `C(v)` and
`0x200 + v` for `D(v)`, and a list of transfers gives its words one per pulse. -/
def Obligations.SampledBusWord : Prop :=
  (∀ (p : PinLatches) (ms : Nat) (v : Byte),
    transferTrace p ((Transfer.c v).events ms) = [some (v.setWidth 10)] ∧
    transferTrace p ((Transfer.d v).events ms) = [some (0x200 + v.setWidth 10)]) ∧
  (∀ (p : PinLatches) (ms : Nat) (ts : List Transfer),
    transferTrace p (transferEvents ms ts) = ts.map fun t => some t.word)

/-- The enable pulse (R113, R122): in the events of any transfers, `Set(EN, HIGH)` is followed at once by the one
`Dwell(T_DWELL_MS)` and then by `Set(EN, LOW)`, and every dwell is in such a pulse. -/
def Obligations.EnablePulse : Prop :=
  ∀ (ms : Nat) (ts : List Transfer) (j : Nat),
    ((transferEvents ms ts)[j]? = some (.set .en .high) →
      (transferEvents ms ts)[j + 1]? = some (.dwell ms) ∧
      (transferEvents ms ts)[j + 2]? = some (.set .en .low)) ∧
    (∀ d, (transferEvents ms ts)[j + 1]? = some (.dwell d) →
      d = ms ∧ (transferEvents ms ts)[j]? = some (.set .en .high))

/-- The interface is write-only (R21, R54): no step writes RW high. -/
def Obligations.RwNeverHigh : Prop :=
  ∀ s t : State, step s = .next t → .set .rw .high ∉ s.trace → .set .rw .high ∉ t.trace

/-! ### Faults, flags, status -/

/-- An illegal word raises `Fault(1)` (R90, R231): no pin event, no latch but `FAULT` changes, `SEQ` stays `IDLE`,
and the response is 1. -/
def Obligations.IllegalWordFaults : Prop :=
  ∀ (s : State) (w : ReqWord) (t : List HostInput), AtPort s → s.host = .request w :: t → IllegalWord w →
    step s = .next { s with
      host := t
      fault := if s.fault = 0 then 1 else s.fault
      responses := s.responses ++ [1] }

/-- A RENDER whose length is beyond `MSG_CAP` raises `Fault(2)`; the word check comes first, so an illegal word
reports 1 whatever the length (R92). -/
def Obligations.LengthFaults : Prop :=
  ∀ (s : State) (w : ReqWord) (t : List HostInput), AtPort s → s.host = .request w :: t →
    s.cfg.msgCap < s.msgLen →
    (∀ c r col, encode (.render c r col) = .request w →
      step s = .next { s with
        host := t
        fault := if s.fault = 0 then 2 else s.fault
        responses := s.responses ++ [2] }) ∧
    (IllegalWord w → ∃ u, step s = .next u ∧ u.responses = s.responses ++ [1] ∧
      u.fault = if s.fault = 0 then 1 else s.fault)

/-- `FAULT` is sticky (R27): a step that changes it is reset, or finds it 0 and leaves 1 for an illegal request word
or 2 for a RENDER whose length is out of range. -/
def Obligations.FaultIsSticky : Prop :=
  ∀ s t : State, step s = .next t → t.fault ≠ s.fault →
    (s.strobe = none ∧ s.resetIn.head? = some true ∧ t.fault = 0) ∨
    (s.fault = 0 ∧ s.seq = .idle ∧ ∃ w, (w ∈ s.host.head?.bind fun
        | .request w => some w
        | .both _ w => some w
        | .quiet => none
        | .write _ => none) ∧
      ((t.fault = 1 ∧ IllegalWord w) ∨
       (t.fault = 2 ∧ t.cfg.msgCap < t.msgLen ∧ ∃ c r col, encode (.render c r col) = .request w)))

/-- After a fault the engine is idle and accepts the next request normally (R233, R238): whatever code it has
kept, a legal request is accepted as from an engine without one. -/
def Obligations.FaultDoesNotDisable : Prop :=
  ∀ (s u : State) (code : Code) (i : Instr), s.seq = .idle → exec i s = .next u → u.seq = .pos 0 →
    ∃ v, exec i (raiseFault code s) = .next v ∧ v.seq = .pos 0 ∧ v.opreg = u.opreg ∧ v.rLen = u.rLen ∧
      v.trace = s.trace ∧ v.responses = s.responses ++ [code] ∧ v.fault = stickyFault s.fault code

/-- `STATUS` (R26, R29): bit 0 is `BUSY`, 1 exactly while `SEQ != IDLE`, bit 1 `DROPPED`, bits 3:2 `FAULT`. -/
def Obligations.StatusPort : Prop :=
  ∀ s : State, s.status.getLsbD 0 = decide (s.seq ≠ .idle) ∧ s.status.getLsbD 1 = s.dropped ∧
    s.status.extractLsb' 2 2 = s.fault

/-- What coincides (R237): (a) reset wins over a request; (b) a request presented in the step in which `BUSY` falls is
still at the port of the then idle engine, for the next step; (c) a message write presented with a
request takes effect first, and a RENDER sees the length it sets. That the responses start anew with
reset is the model's choice (log entry 13). A bus word still to be taken comes before all three: it is
the step of `StepRunsStrobedBusWord` (log entry 12). -/
def Obligations.SimultaneousEvents : Prop :=
  (∀ (s : State) (t : List Bool), s.cfg.wf = true → s.strobe = none → s.resetIn = true :: t →
    ∃ u, step s = .next u ∧ u.seq = .idle ∧ u.inReset = true ∧ u.host = s.host ∧ u.responses = []) ∧
  (∀ (s : State) (n : Nat) (w : ReqWord) (h : List HostInput), AtEvent s n → n + 1 = s.program.length →
    s.host = .request w :: h → ∃ u, step s = .next u ∧ AtPort u ∧ u.host = .request w :: h ∧
      ∀ i, decodeRequest w = .ok i → step u = exec i { u with host := h }) ∧
  (∀ (s : State) (n : Nat) (c : Bool) (r : Row) (col : StartCol) (h : List HostInput), AtPort s →
    s.host = .both (.len n) (wordR 0b00010 c r col) :: h → n ≤ s.cfg.msgCap →
    ∃ u, step s = .next u ∧ u.seq = .pos 0 ∧ u.msgLen = n ∧ u.rLen = n)

/-! ### The message space and the configuration -/

/-- The host's writes (R53): `HostWriteMsg(a, b)` below `MSG_CAP` makes byte `a` read as `b` and leaves every other;
at or beyond it changes nothing. `HostSetLen(n)` below `2^LEN_W` sets the length, one beyond `MSG_CAP`
makes the next RENDER fault with code 2, and while the engine is busy a write is held off. -/
def Obligations.HostWrites : Prop :=
  (∀ (s : State) (a : Nat) (b : Byte) (t : List HostInput), AtPort s → s.host = .write (.byte a b) :: t →
    (a < s.cfg.msgCap → ∃ u, step s = .next u ∧ u = { s with host := t, msg := u.msg } ∧
      u.memRead a = some b ∧ ∀ x, x ≠ a → u.memRead x = s.memRead x) ∧
    (s.cfg.msgCap ≤ a → step s = .next { s with host := t })) ∧
  (∀ (s : State) (n : Nat) (t : List HostInput), AtPort s → s.host = .write (.len n) :: t →
    n < 2 ^ s.cfg.lenW →
    step s = .next { s with host := t, msgLen := n } ∧
    (s.cfg.msgCap < n → ∀ c r col, exec (.render c r col) { s with host := t, msgLen := n } =
      .next (raiseFault 2 { s with host := t, msgLen := n }))) ∧
  (∀ (s u : State) (n : Nat) (h : HostWrite) (t : List HostInput), AtEvent s n →
    s.host = .write h :: t → step s = .next u → u.host = s.host ∧ u.msg = s.msg ∧ u.msgLen = s.msgLen)

/-- `MemRead(MSG, a, 1)` (R51, R52): a byte below `MSG_CAP` that the host has written reads as written; beyond
`MSG_CAP` there is no byte. Two memories in canonical form that read alike are equal. -/
def Obligations.MessageMemory : Prop :=
  (∀ (s : State) (a : Nat) (b : Byte), s.msg.read? a = some b → a < s.cfg.msgCap → s.memRead a = some b) ∧
  (∀ (s : State) (a : Nat), s.cfg.msgCap ≤ a → s.memRead a = none) ∧
  (∀ m m' : Memory, m.wf → m'.wf → (∀ a, m.read? a = m'.read? a) → m = m')

/-- PinAssignment is immutable and pairwise distinct (R30): no step changes the configuration, and a machine
whose identifiers are not pairwise distinct is refused. -/
def Obligations.ConfigurationImmutable : Prop :=
  (∀ s t : State, step s = .next t → t.cfg = s.cfg) ∧
  (∀ s : State, ¬ s.cfg.pins.ids.Nodup → step s = .refused .badConfiguration)

/-! ### Reset -/

/-- The reset values (R40) of the machine just after release of reset, in any configuration, and the first eleven
events (R261). What R40 leaves unspecified is not stated. -/
def Obligations.ResetValues : Prop :=
  ∀ c : Config,
    (State.resetWith c).cfg = c ∧ (State.resetWith c).seq = .idle ∧ (State.resetWith c).status = 0 ∧
    (State.resetWith c).msgLen = 0 ∧ (State.resetWith c).cnt = 0 ∧ (State.resetWith c).idx = 0 ∧
    (State.resetWith c).rLen = 0 ∧ (∀ sig, (State.resetWith c).pins.get sig = .undef) ∧
    (State.resetWith c).trace =
      [.cfg .rs, .cfg .rw, .cfg .en, .cfg (.d 0), .cfg (.d 1), .cfg (.d 2), .cfg (.d 3), .cfg (.d 4),
       .cfg (.d 5), .cfg (.d 6), .cfg (.d 7)] ∧
    State.reset = State.resetWith State.reset.cfg

/-- While reset is asserted (R40, R260, R263): whatever the engine was doing is abandoned with no further pin event
and its state is that of R40; the configuration and the controller's Display stay. The trace and the
responses are those since reset (R9; log entry 13), and a pulse that reset cuts short leaves the
observer knowing nothing (V8.2; log entry 6). -/
def Obligations.ResetAsserted : Prop :=
  ∀ (s : State) (t : List Bool), s.cfg.wf = true → s.strobe = none → s.resetIn = true :: t →
    ∃ u, step s = .next u ∧ u.resetIn = t ∧ u.inReset = true ∧ u.cfg = s.cfg ∧ u.seq = .idle ∧
      u.status = 0 ∧ u.msgLen = 0 ∧ u.cnt = 0 ∧ u.idx = 0 ∧ u.rLen = 0 ∧
      (∀ sig, u.pins.get sig = .undef) ∧ u.trace = [] ∧ u.responses = [] ∧
      (s.pins.en ≠ .driven .high → u.observer = s.observer) ∧
      (s.pins.en = .driven .high → u.observer = { phase := .waiting, seen := 0, display := Display.unknown })

/-- On release of reset the eleven pins are configured as outputs (R261): eleven `Cfg` events in this order, through
PinAssignment, before any request can be accepted and as the first of the trace. That they come in one step
is the model's choice (log entry 14), and so is that the trace starts anew with reset (log entry 13). -/
def Obligations.ReleaseConfiguresPins : Prop :=
  ∀ s : State, s.cfg.wf = true → s.strobe = none → s.resetIn = [true] →
    ∃ u, run 2 s = .next u ∧ u.inReset = false ∧ u.seq = .idle ∧ u.host = s.host ∧
      u.trace =
        [.cfg .rs, .cfg .rw, .cfg .en, .cfg (.d 0), .cfg (.d 1), .cfg (.d 2), .cfg (.d 3), .cfg (.d 4),
         .cfg (.d 5), .cfg (.d 6), .cfg (.d 7)] ∧
      u.gpioCalls = s.cfg.pins.ids.map .configurePin

/-- After reset the sequencer does nothing until the host presents a request (R262). That the latches to which X4 allows any
value stay too is the model's choice (log entry 26). -/
def Obligations.IdleDoesNothing : Prop :=
  ∀ s : State, AtPort s → s.host = [] → step s = .next s

/-! ### The observer: every bus word -/

/-- `C(0x80)` and `C(0xC0)` (R204, R205): the pointer goes to column 0 of the row; nothing else changes. -/
def Obligations.ObserverOrigins : Prop :=
  ∀ (s : State) (d : Display), s.knows d →
    exec .c80 s = .next (s.shows 0x080 { d with row := some .top, col := some 0 }) ∧
    exec .cc0 s = .next (s.shows 0x0C0 { d with row := some .bottom, col := some 0 })

/-- `D(v)` with entry mode increment (R206, R207): at a visible column it stores `v` there and nowhere else; beyond
column 15 it stores nothing, sets `offgrid`, and what the glass shows is not determined; the pointer
advances either way. If the row, the column or the entry mode is unknown, every cell becomes unknown.
The glass of a display that is off is dark even then (R220): the clause on the glass leaves it out, which is
the model's reading of R207 (log entry 22).
Where the shift is not known, that the cells are is the model's choice (R206 over R216, log entry 28). -/
def Obligations.ObserverStore : Prop :=
  ∀ (s : State) (d : Display) (v : Byte), s.knows d →
    (∀ r c, d.entryMode = some .increment → d.row = some r → d.col = some c → c ≤ 15 →
      ∃ g : Grid,
        exec (.data v) s = .next (s.shows (0x200 + v.setWidth 10) { d with cells := g, col := some (c + 1) }) ∧
        g.get r c = some v ∧ ∀ r' c', (r', c') ≠ (r, c) → g.get r' c' = d.cells.get r' c') ∧
    (∀ r c, d.entryMode = some .increment → d.row = some r → d.col = some c → 15 < c →
      exec (.data v) s = .next
        (s.shows (0x200 + v.setWidth 10) { d with col := some (c + 1), offgrid := some true }) ∧
      ∀ r' c', d.displayEnabled ≠ some false →
        ({ d with col := some (c + 1), offgrid := some true } : Display).glass r' c' = .undetermined) ∧
    (d.entryMode = none ∨ d.row = none ∨ d.col = none →
      ∃ d', exec (.data v) s = .next (s.shows (0x200 + v.setWidth 10) d') ∧ ∀ r c, d'.cells.get r c = none)

/-- `C(0x30)` and `C(0x38)` change no Display field (R208). -/
def Obligations.ObserverFunctionSet : Prop :=
  ∀ (s : State) (d : Display), s.knows d →
    exec .c30 s = .next (s.shows 0x030 d) ∧ exec .c38 s = .next (s.shows 0x038 d)

/-- The display-control bytes (R209, R210): the three booleans of each, and of the pair 0x0E 0x0F. The blinking bit of
the first three and the single effects of the last two are the spec's general knowledge, which the
model takes (log entry 7, PRESUMED). -/
def Obligations.ObserverDisplayControl : Prop :=
  ∀ (s : State) (d : Display), s.knows d →
    exec .c08 s = .next (s.shows 0x008 { d with
      displayEnabled := some false, cursorVisible := some false, cursorBlinking := some false }) ∧
    exec .c0a s = .next (s.shows 0x00A { d with
      displayEnabled := some false, cursorVisible := some true, cursorBlinking := some false }) ∧
    exec .c0c s = .next (s.shows 0x00C { d with
      displayEnabled := some true, cursorVisible := some false, cursorBlinking := some false }) ∧
    exec .c0e s = .next (s.shows 0x00E { d with
      displayEnabled := some true, cursorVisible := some true, cursorBlinking := some false }) ∧
    exec .c0f s = .next (s.shows 0x00F { d with
      displayEnabled := some true, cursorVisible := some true, cursorBlinking := some true })

/-- `C(0x01)` (R211): every cell 0x20, the pointer at (0, 0), `offgrid` cleared, the shift undone, and entry mode
increment. The undone shift and the entry mode are the spec's general knowledge, which the model takes (log entry 7,
PRESUMED). That an entry mode made unknown by 0x04, 0x05 or 0x07 stays unknown until a 0x06 (R216) is
the model's reading (log entry 8). -/
def Obligations.ObserverClear : Prop :=
  ∀ (s : State) (d : Display), s.knows d →
    ∃ d', exec .c01 s = .next (s.shows 0x001 d') ∧
      d' = { d with
        row := some .top, col := some 0, shift := some 0, offgrid := some false, cells := d'.cells
        entryMode := if d.entryMode = none then none else some .increment } ∧
      ∀ r c, c < 16 → d'.cells.get r c = some 0x20

/-- `C(0x02)` (R212): the pointer at (0, 0) and the shift undone; no cell changes. The detail is the spec's general
knowledge, which the model takes (log entry 7, PRESUMED). -/
def Obligations.ObserverHome : Prop :=
  ∀ (s : State) (d : Display), s.knows d →
    exec .c02 s = .next (s.shows 0x002 { d with row := some .top, col := some 0, shift := some 0 })

/-- `C(0x10)` and `C(0x14)` (R213): one column left or right and no cell changes; a step left from column 0 sets
`offgrid` and loses the column, a step right from column 15 or beyond sets `offgrid`. Beyond column 15 this
is the model's choice (log entry 9), and that no cell changes is general knowledge it takes (log entry 7). -/
def Obligations.ObserverCursorMoves : Prop :=
  ∀ (s : State) (d : Display) (c : Nat), s.knows d → d.col = some c →
    (0 < c → exec .c10 s = .next (s.shows 0x010 { d with col := some (c - 1) })) ∧
    (c = 0 → exec .c10 s = .next (s.shows 0x010 { d with col := none, offgrid := some true })) ∧
    (c < 15 → exec .c14 s = .next (s.shows 0x014 { d with col := some (c + 1) })) ∧
    (15 ≤ c → exec .c14 s = .next (s.shows 0x014 { d with col := some (c + 1), offgrid := some true }))

/-- `C(0x18)` and `C(0x1C)` (R214): the shift changes by one, the cells and the pointer do not; while the shift is not
0 the glass of a display that is on is not determined. That cells and pointer stay is the spec's general
knowledge, which the model takes (log entry 7, PRESUMED); the glass is the model's choice (log entry 22). -/
def Obligations.ObserverDisplayShift : Prop :=
  ∀ (s : State) (d : Display), s.knows d →
    exec .c18 s = .next (s.shows 0x018 { d with shift := d.shift.map (· - 1) }) ∧
    exec .c1c s = .next (s.shows 0x01C { d with shift := d.shift.map (· + 1) }) ∧
    (∀ r c, d.displayEnabled = some true → d.shift ≠ some 0 → d.glass r c = .undetermined)

/-- `C(0x06)` (R215): entry mode increment; the pointer moves one column only under `OBS_06_MOVES`, and not even then
when the word ends an initialization trace. That it does not move by default is the spec's general
knowledge, which the model takes (log entry 7, PRESUMED); the initialization's 0x06 is log entry 10, and
`offgrid` after a move beyond column 15 or from an unknown column is log entry 9. -/
def Obligations.ObserverEntryIncrement : Prop :=
  ∀ (s : State) (d : Display), s.knows d →
    (s.cfg.obs06Moves = false ∨ s.observer.seen = 6 →
      exec .c06 s = .next (s.shows 0x006 { d with entryMode := some .increment })) ∧
    (s.cfg.obs06Moves = true → s.observer.seen ≠ 6 → ∃ d', exec .c06 s = .next (s.shows 0x006 d') ∧
      d' = { d with entryMode := some .increment, col := d.col.map (· + 1), offgrid := d'.offgrid } ∧
      (∀ c, d.col = some c → d'.offgrid = if c < 15 then d.offgrid else some true) ∧
      (d.col = none → d'.offgrid = if d.offgrid = some true then some true else none))

/-- `C(0x04)`, `C(0x05)`, `C(0x07)` (R216): the entry mode and the shift become unknown, and a `C(0x06)` with a
`C(0x01)` or a `C(0x02)` restores them. -/
def Obligations.ObserverEntryUnknown : Prop :=
  ∀ (s : State) (d : Display), s.knows d →
    (∀ i ∈ [Instr.c04, .c05, .c07],
      ∃ w, encode i = .bus w ∧ exec i s = .next (s.shows w { d with entryMode := none, shift := none })) ∧
    (∀ i ∈ [Instr.c01, .c02], ∃ t u, exec .c06 s = .next t ∧ exec i t = .next u ∧
      u.observer.display.entryMode = some .increment ∧ u.observer.display.shift = some 0)

/-- Where the column, the row or the entry mode is not known (log entry 9, the model's choice where the spec has no
rule): a cursor move at an unknown column, and a store at one, leave `offgrid` set if it was set and else
not known; a store in increment mode loses every cell and no more, a known column rising by one; a store
in a mode that is not increment loses the cells, the pointer and the shift, and leaves `offgrid` set if it
was set or the column was beyond 15 and else not known. Everything else stays. -/
def Obligations.ObserverUnknownPointer : Prop :=
  ∀ (s : State) (d : Display) (v : Byte), s.knows d →
    (d.col = none →
      exec .c10 s = .next (s.shows 0x010 { d with
        offgrid := if d.offgrid = some true then some true else none }) ∧
      exec .c14 s = .next (s.shows 0x014 { d with
        offgrid := if d.offgrid = some true then some true else none })) ∧
    (d.entryMode = some .increment → d.row = none ∨ d.col = none →
      ∃ d', exec (.data v) s = .next (s.shows (0x200 + v.setWidth 10) d') ∧
        d' = { d with cells := d'.cells, col := d.col.map (· + 1), offgrid := d'.offgrid } ∧
        (∀ r c, d'.cells.get r c = none) ∧
        (∀ c, d.col = some c → d'.offgrid = if c ≤ 15 then d.offgrid else some true) ∧
        (d.col = none → d'.offgrid = if d.offgrid = some true then some true else none)) ∧
    (d.entryMode ≠ some .increment →
      ∃ d', exec (.data v) s = .next (s.shows (0x200 + v.setWidth 10) d') ∧
        d' = { d with cells := d'.cells, row := none, col := none, shift := none, offgrid := d'.offgrid } ∧
        (∀ r c, d'.cells.get r c = none) ∧
        (d.offgrid = some true ∨ (∃ c, d.col = some c ∧ 15 < c) → d'.offgrid = some true) ∧
        (d.offgrid ≠ some true → (∀ c, d.col = some c → c ≤ 15) → d'.offgrid = none))

/-- Where nothing is known of the controller every row of the bus table runs (R202, R203). Before a complete
initialization trace it leaves every field unknown but `offgrid`, which stays as it is (log entry 24); the
word that completes the trace gives the Display of R221, whatever `OBS_06_MOVES` is (log entry 10); and in a pulse that began with EN not low it
is no part of a trace (R118; log entry 11). -/
def Obligations.ObserverBeforeInit : Prop :=
  ∀ (i : Instr) (w : BusWord) (s : State), encode i = .bus w →
    (s.observer.phase = .waiting → ¬ (s.observer.seen = 6 ∧ i = .c06) →
      exec i s = .next { s with
        strobe := none
        observer := { phase := .waiting, seen := initSeen s.observer.seen w
                      display := { Display.unknown with offgrid := s.observer.display.offgrid } } }) ∧
    (s.observer.phase = .waiting → s.observer.seen = 6 → i = .c06 →
      exec i s = .next { s with
        strobe := none, observer := { phase := .ready, seen := 7, display := Display.afterInit } }) ∧
    (s.observer.phase = .blind →
      exec i s = .next { s with
        strobe := none
        observer := { phase := .waiting, seen := 0
                      display := { Display.unknown with offgrid := s.observer.display.offgrid } } })

/-- The observer over a transfer trace (R203, R217, R221). Once the words of the initialization have come, from whatever
was known and whatever `OBS_06_MOVES` is, the Display is that of R221, and then what each later word's
rule makes of it, up to the next initialization; without `OBS_06_MOVES` that is also what the rules make
of that one. Without such a piece followed by words that all have rules, nothing is known but `offgrid`.
The initialization's 0x06 is log entry 10, that a word without a rule or an unclean pulse undoes
everything is log entry 11, and that `offgrid` stays is log entry 24. -/
def Obligations.ObserverNeedsInit : Prop :=
  (∀ (moves : Bool) (o : Observer) (a b : List BusWord) (is : List Instr),
    (o.phase ≠ .blind ∨ a ≠ []) → b.map decodeBus = is.map .ok →
    (moves = true → ¬ [0x030, 0x030, 0x030, 0x038, 0x008, 0x001, 0x006] <:+: b) →
    ∃ n, o.steps moves (a ++ [0x030, 0x030, 0x030, 0x038, 0x008, 0x001, 0x006] ++ b) =
      { phase := .ready, seen := n
        display := is.foldl (fun d i => busEffect moves i d) Display.afterInit }) ∧
  (∀ (moves : Bool) (ws : List BusWord),
    (¬ ∃ a b is, ws = a ++ [0x030, 0x030, 0x030, 0x038, 0x008, 0x001, 0x006] ++ b ∧
      b.map decodeBus = List.map .ok is) →
    ∃ n off, Observer.initial.steps moves ws =
      { phase := .waiting, seen := n, display := { Display.unknown with offgrid := off } })

/-- `INIT` from any state, whatever the controller was, whatever EN was and whatever `OBS_06_MOVES` is (log entry 10),
every pulse taken (R202, R221): display,
cursor and blinking off, every cell 0x20, the pointer at (0, 0), shift 0, entry mode increment and
`offgrid` false. The display is dark until a display-on byte (R266). -/
def Obligations.InitEstablishesDisplay : Prop :=
  ∀ s : State, AtPort s → s.observer.phase ≠ .blind →
    ∃ t u, exec .init s = .next t ∧ run 101 t = .next u ∧ u.seq = .idle ∧
      u.knows { row := some .top, col := some 0, cells := u.observer.display.cells
                displayEnabled := some false, cursorVisible := some false, cursorBlinking := some false
                entryMode := some .increment, shift := some 0, offgrid := some false } ∧
      (∀ r c, c < 16 → u.observer.display.cells.get r c = some 0x20) ∧
      (∀ r c, u.observer.display.glass r c = .dark)

/-- The clear phase of RENDER as the observer sees it (R218), for either row asked. With `OBS_06_MOVES` false the blanks
land on columns 0 to 14 of the top row, column 15 keeps its code and the pointer ends at column 15; with
it true they land on the even columns and set `offgrid`. The bottom row is untouched.
Where the shift is not known, that the cells are is the model's choice (R206 over R216, log entry 28). -/
def Obligations.ClearPhaseSeen : Prop :=
  ∀ (d : Display) (r : Row) (moves : Bool) (n : Nat), d.entryMode = some .increment →
    ∃ d', Observer.steps moves { phase := .ready, seen := n, display := d }
        (([Transfer.c (rowOrigin r), Transfer.c 0x80] ++
          (List.replicate 15 [Transfer.d 0x20, Transfer.c 0x06]).flatten).map Transfer.word) =
        { phase := .ready, seen := 0, display := d' } ∧
      (∀ c, c < 16 → d'.cells.get .bottom c = d.cells.get .bottom c) ∧
      d'.row = some .top ∧
      (moves = false → d'.col = some 15 ∧ d'.offgrid = d.offgrid ∧
        ∀ c, c < 16 → d'.cells.get .top c = if c < 15 then some 0x20 else d.cells.get .top c) ∧
      (moves = true → d'.offgrid = some true ∧
        ∀ c, c < 16 → d'.cells.get .top c = if c % 2 = 0 then some 0x20 else d.cells.get .top c)

/-- The message of a RENDER as the observer sees it (R219). Character `i` of the first sixteen goes to column `k + i` of
the row if that is visible, `k` being 0, or the start column under `OBS_06_MOVES`; character `16 + c`
goes to column `c` of row 1, over what stands there; a character with no visible column sets `offgrid`.
Where the shift is not known, that the cells are is the model's choice (R206 over R216, log entry 28). -/
def Obligations.MessageSeen : Prop :=
  ∀ (d : Display) (moves : Bool) (r : Row) (col : StartCol) (msg : List Byte) (k n : Nat),
    d.entryMode = some .increment → k = (if moves then col.toNat else 0) →
    ∃ d', Observer.steps moves { phase := .ready, seen := n, display := d }
        ((renderTransfers false r col msg).map Transfer.word) = { phase := .ready, seen := 0, display := d' } ∧
      (∀ r' c, c < 16 → d'.cells.get r' c =
        if r' = .bottom ∧ 16 + c < msg.length then msg[16 + c]?
        else if r' = r ∧ k ≤ c ∧ c < k + min msg.length 16 then msg[c - k]?
        else d.cells.get r' c) ∧
      (k ≤ 15 ∧ k + min msg.length 16 ≤ 16 ∧ msg.length ≤ 32 → d'.offgrid = d.offgrid) ∧
      ((0 < msg.length ∧ 16 < k + min msg.length 16) ∨ 32 < msg.length → d'.offgrid = some true) ∧
      d'.row = some (if msg.length ≤ 16 then r else .bottom) ∧
      d'.col = some (if msg.length ≤ 16 then k + msg.length else msg.length - 16)

/-- What is on the glass (R220): the code of the cell while the display is on, unshifted and not off the grid; nothing
while the display is off, though a data write still writes the cell.
Where the shift is not known, that the cells are is the model's choice (R206 over R216, log entry 28). -/
def Obligations.GlassShowsCells : Prop :=
  (∀ (d : Display) (r : Row) (c : Nat) (v : Byte),
    (d.displayEnabled = some true → d.shift = some 0 → d.offgrid = some false → d.cells.get r c = some v →
      d.glass r c = .code v) ∧
    (d.displayEnabled = some false → d.glass r c = .dark)) ∧
  ∀ (s : State) (d : Display) (r : Row) (c : Nat) (v : Byte), s.knows d → d.displayEnabled = some false →
    d.entryMode = some .increment → d.row = some r → d.col = some c → c ≤ 15 →
    ∃ u, exec (.data v) s = .next u ∧ u.observer.display.cells.get r c = some v ∧
      ∀ r' c', u.observer.display.glass r' c' = .dark

/-! ### The whole machine -/

/-- The engine holds no model of the controller and never reads one (R36, R222): two states that differ in the
observer alone step to states that differ in the observer alone. -/
def Obligations.EngineIgnoresObserver : Prop :=
  ∀ (s t : State) (o : Observer), step s = .next t →
    ∃ o', step { s with observer := o } = .next { t with observer := o' }

/-- What exec leaves of the state, for all forty instructions: no instruction touches the configuration, the
message, the reset input, the host's list or the trace; a request changes no pin and no part of the
environment; a bus word changes no part of the engine (R20, R130, R202, R222). For the latches to which X4
allows any value this is the model's choice (log entry 26). -/
def Obligations.ExecFrame : Prop :=
  ∀ (i : Instr) (s t : State), exec i s = .next t →
    (t.cfg = s.cfg ∧ (∀ a, t.memRead a = s.memRead a) ∧ t.msgLen = s.msgLen ∧ t.trace = s.trace ∧
      t.pins = s.pins ∧ t.tKind = s.tKind ∧ t.tVal = s.tVal ∧ t.inReset = s.inReset ∧
      t.resetIn = s.resetIn ∧ t.host = s.host ∧ t.drawEpoch = s.drawEpoch) ∧
    (i.space = .request → t.strobe = s.strobe ∧ t.observer = s.observer) ∧
    (i.space = .request → (∀ c r col, i ≠ .render c r col) →
      t.rLen = s.rLen ∧ t.cnt = s.cnt ∧ t.idx = s.idx ∧ t.dropped = s.dropped ∧ t.fault = s.fault ∧
      t.responses = s.responses) ∧
    (i.space = .bus → t = { s with strobe := none, observer := t.observer })

/-- The invariant holds right after reset, in every legal configuration. -/
def Obligations.InvAtReset : Prop :=
  (∀ c : Config, c.wf = true → Inv (State.resetWith c)) ∧ Inv State.reset

/-- The invariant is kept by every step: the message memory stays canonical and below its capacity, the lengths and
counters stay in their ranges, no code 3 is produced, RW is never high, the pulses are whole, the
observer knows nothing before an initialization, and `SEQ` stays on its event list. -/
def Obligations.InvKept : Prop :=
  ∀ s t : State, Inv s → step s = .next t → Inv t

/-- Under the invariant no step stops: none of the operations can fail once accepted (R116, R230), and no message
read is out of range (R52). -/
def Obligations.NoStepStops : Prop :=
  ∀ s : State, Inv s → ∃ t, step s = .next t

/-- A started operation finishes (R183, X10): from any state of the invariant that no reset cuts short, the engine is
idle within two steps for every event of its list, the observer's steps among them. -/
def Obligations.StartedOperationFinishes : Prop :=
  ∀ s : State, Inv s → s.resetIn = [] →
    ∃ k u, k ≤ 2 * s.program.length + 1 ∧ run k s = .next u ∧ u.seq = .idle

end
end

