-- ==== Sys2Proof/Laws/Decode.lean ====
section
/-! SUPPORT. The fields of a word read back from the encoder's words, and two words with equal fields are
equal. -/

namespace Sys2Proof.Laws

open Sys2Proof

@[simp] theorem rowOfBit_bit (r : Row) : rowOfBit r.bit = r := by cases r <;> rfl

@[simp] theorem bit_rowOfBit (b : Bool) : (rowOfBit b).bit = b := by cases b <;> rfl

variable (op : BitVec 5) (v : Byte) (c : Bool) (r : Row)

@[simp] theorem opField_wordN : opField (wordN op) = op := by revert op; decide

@[simp] theorem opField_wordW : opField (wordW op v) = op := by
  ext i hi
  interval_cases i <;> simp [opField, wordW]

@[simp] theorem opField_wordR : opField (wordR op c r v) = op := by
  ext i hi
  interval_cases i <;> simp [opField, wordR]

@[simp] theorem lowByte_wordW : lowByte (wordW op v) = v := by
  ext i hi
  interval_cases i <;> simp [lowByte, wordW]

@[simp] theorem lowByte_wordR : lowByte (wordR op c r v) = v := by
  ext i hi
  interval_cases i <;> simp [lowByte, wordR]

@[simp] theorem colField_wordR (col : StartCol) : colField (wordR op c r col) = col := by
  ext i hi
  interval_cases i <;> simp [colField, wordR]

/-- Format N: `W[10:0]` is 0. -/
@[simp] theorem wordN_zeros : (wordN op).extractLsb' 0 11 = 0 := by revert op; decide

/-- Format W: `W[10:8]` is 0. -/
@[simp] theorem wordW_zeros : (wordW op v).extractLsb' 8 3 = 0 := by
  ext i hi
  interval_cases i <;> simp [wordW]

/-- Format R: `W[8]` is 0, `W[9]` is ROW, `W[10]` is CLR. -/
theorem wordR_bits :
    (wordR op c r v)[8] = false ∧ (wordR op c r v)[9] = r.bit ∧ (wordR op c r v)[10] = c := by
  simp [wordR]

/-- A word is its operation field and the eleven bits below it. -/
theorem reqWord_ext {w w' : ReqWord} (h1 : opField w = opField w')
    (h2 : w.extractLsb' 0 11 = w'.extractLsb' 0 11) : w = w' := by
  ext i hi
  by_cases h : i < 11
  · have := congrArg (·.getLsbD i) h2
    simpa [h, BitVec.getLsbD_eq_getElem hi] using this
  · have := congrArg (·.getLsbD (i - 11)) h1
    simpa [opField, show 11 + (i - 11) = i by omega, show i - 11 < 5 by omega,
      BitVec.getLsbD_eq_getElem hi] using this

@[simp] theorem commandWord_value : (commandWord v).extractLsb' 0 8 = v := by
  ext i hi
  interval_cases i <;> simp [commandWord]

@[simp] theorem dataWord_value : (dataWord v).extractLsb' 0 8 = v := by
  ext i hi
  interval_cases i <;> simp [dataWord]

/-- A command word has RS and RW low, a data word RS high and RW low (R80). -/
theorem busWord_controls :
    (commandWord v).getLsbD 9 = false ∧ (commandWord v).getLsbD 8 = false ∧
    (dataWord v).getLsbD 9 = true ∧ (dataWord v).getLsbD 8 = false := by
  simp [commandWord, dataWord]

/-- Every data word is the table's row DATA (R83). -/
@[simp] theorem decodeBus_dataWord : decodeBus (dataWord v) = .ok (.data v) := by
  simp only [decodeBus, (busWord_controls v).2.2.1, (busWord_controls v).2.2.2, dataWord_value]
  rfl

end Sys2Proof.Laws
end

