-- ==== Sys2Proof/Laws/State.lean ====
section
/-! SUPPORT. One lemma per field per update of the state, so that no later proof unfolds an update. -/

namespace Sys2Proof.Laws

open Sys2Proof.Machine

variable (s : State)

/-! `setPin` -/

@[simp] theorem setPin_cfg (sig : Sig) (lvl : Level) : (setPin sig lvl s).cfg = s.cfg := rfl
@[simp] theorem setPin_pins (sig : Sig) (lvl : Level) : (setPin sig lvl s).pins = s.pins.set sig lvl := rfl
@[simp] theorem setPin_seq (sig : Sig) (lvl : Level) : (setPin sig lvl s).seq = s.seq := rfl
@[simp] theorem setPin_opreg (sig : Sig) (lvl : Level) : (setPin sig lvl s).opreg = s.opreg := rfl
@[simp] theorem setPin_rLen (sig : Sig) (lvl : Level) : (setPin sig lvl s).rLen = s.rLen := rfl
@[simp] theorem setPin_tKind (sig : Sig) (lvl : Level) : (setPin sig lvl s).tKind = s.tKind := rfl
@[simp] theorem setPin_tVal (sig : Sig) (lvl : Level) : (setPin sig lvl s).tVal = s.tVal := rfl
@[simp] theorem setPin_cnt (sig : Sig) (lvl : Level) : (setPin sig lvl s).cnt = s.cnt := rfl
@[simp] theorem setPin_idx (sig : Sig) (lvl : Level) : (setPin sig lvl s).idx = s.idx := rfl
@[simp] theorem setPin_dropped (sig : Sig) (lvl : Level) : (setPin sig lvl s).dropped = s.dropped := rfl
@[simp] theorem setPin_fault (sig : Sig) (lvl : Level) : (setPin sig lvl s).fault = s.fault := rfl
@[simp] theorem setPin_msg (sig : Sig) (lvl : Level) : (setPin sig lvl s).msg = s.msg := rfl
@[simp] theorem setPin_msgLen (sig : Sig) (lvl : Level) : (setPin sig lvl s).msgLen = s.msgLen := rfl
@[simp] theorem setPin_responses (sig : Sig) (lvl : Level) : (setPin sig lvl s).responses = s.responses := rfl
@[simp] theorem setPin_trace (sig : Sig) (lvl : Level) : (setPin sig lvl s).trace = s.trace ++ [.set sig lvl] := rfl
@[simp] theorem setPin_inReset (sig : Sig) (lvl : Level) : (setPin sig lvl s).inReset = s.inReset := rfl
@[simp] theorem setPin_resetIn (sig : Sig) (lvl : Level) : (setPin sig lvl s).resetIn = s.resetIn := rfl
@[simp] theorem setPin_host (sig : Sig) (lvl : Level) : (setPin sig lvl s).host = s.host := rfl
@[simp] theorem setPin_strobe (sig : Sig) (lvl : Level) : (setPin sig lvl s).strobe = s.strobe := rfl
@[simp] theorem setPin_observer (sig : Sig) (lvl : Level) : (setPin sig lvl s).observer = s.observer := rfl
@[simp] theorem setPin_drawEpoch (sig : Sig) (lvl : Level) : (setPin sig lvl s).drawEpoch = s.drawEpoch := rfl

/-! `lowerEnable` -/

@[simp] theorem lowerEnable_cfg : (lowerEnable s).cfg = s.cfg := rfl
@[simp] theorem lowerEnable_pins : (lowerEnable s).pins = s.pins.set .en .low := rfl
@[simp] theorem lowerEnable_seq : (lowerEnable s).seq = s.seq := rfl
@[simp] theorem lowerEnable_opreg : (lowerEnable s).opreg = s.opreg := rfl
@[simp] theorem lowerEnable_rLen : (lowerEnable s).rLen = s.rLen := rfl
@[simp] theorem lowerEnable_tKind : (lowerEnable s).tKind = s.tKind := rfl
@[simp] theorem lowerEnable_tVal : (lowerEnable s).tVal = s.tVal := rfl
@[simp] theorem lowerEnable_cnt : (lowerEnable s).cnt = s.cnt := rfl
@[simp] theorem lowerEnable_idx : (lowerEnable s).idx = s.idx := rfl
@[simp] theorem lowerEnable_dropped : (lowerEnable s).dropped = s.dropped := rfl
@[simp] theorem lowerEnable_fault : (lowerEnable s).fault = s.fault := rfl
@[simp] theorem lowerEnable_msg : (lowerEnable s).msg = s.msg := rfl
@[simp] theorem lowerEnable_msgLen : (lowerEnable s).msgLen = s.msgLen := rfl
@[simp] theorem lowerEnable_responses : (lowerEnable s).responses = s.responses := rfl
@[simp] theorem lowerEnable_trace : (lowerEnable s).trace = s.trace ++ [.set .en .low] := rfl
@[simp] theorem lowerEnable_inReset : (lowerEnable s).inReset = s.inReset := rfl
@[simp] theorem lowerEnable_resetIn : (lowerEnable s).resetIn = s.resetIn := rfl
@[simp] theorem lowerEnable_host : (lowerEnable s).host = s.host := rfl
@[simp] theorem lowerEnable_strobe : (lowerEnable s).strobe = s.strobe := rfl
@[simp] theorem lowerEnable_observer : (lowerEnable s).observer = s.observer := rfl
@[simp] theorem lowerEnable_drawEpoch : (lowerEnable s).drawEpoch = s.drawEpoch := rfl

/-! `raiseEnable` -/

@[simp] theorem raiseEnable_cfg : (raiseEnable s).cfg = s.cfg := rfl
@[simp] theorem raiseEnable_pins : (raiseEnable s).pins = s.pins.set .en .high := rfl
@[simp] theorem raiseEnable_seq : (raiseEnable s).seq = s.seq := rfl
@[simp] theorem raiseEnable_opreg : (raiseEnable s).opreg = s.opreg := rfl
@[simp] theorem raiseEnable_rLen : (raiseEnable s).rLen = s.rLen := rfl
@[simp] theorem raiseEnable_tKind : (raiseEnable s).tKind = s.tKind := rfl
@[simp] theorem raiseEnable_tVal : (raiseEnable s).tVal = s.tVal := rfl
@[simp] theorem raiseEnable_cnt : (raiseEnable s).cnt = s.cnt := rfl
@[simp] theorem raiseEnable_idx : (raiseEnable s).idx = s.idx := rfl
@[simp] theorem raiseEnable_dropped : (raiseEnable s).dropped = s.dropped := rfl
@[simp] theorem raiseEnable_fault : (raiseEnable s).fault = s.fault := rfl
@[simp] theorem raiseEnable_msg : (raiseEnable s).msg = s.msg := rfl
@[simp] theorem raiseEnable_msgLen : (raiseEnable s).msgLen = s.msgLen := rfl
@[simp] theorem raiseEnable_responses : (raiseEnable s).responses = s.responses := rfl
@[simp] theorem raiseEnable_trace : (raiseEnable s).trace = s.trace ++ [.set .en .high] := rfl
@[simp] theorem raiseEnable_inReset : (raiseEnable s).inReset = s.inReset := rfl
@[simp] theorem raiseEnable_resetIn : (raiseEnable s).resetIn = s.resetIn := rfl
@[simp] theorem raiseEnable_host : (raiseEnable s).host = s.host := rfl
@[simp] theorem raiseEnable_strobe : (raiseEnable s).strobe = s.strobe := rfl
@[simp] theorem raiseEnable_observer : (raiseEnable s).observer = if s.pins.en = .driven .low then s.observer else Observer.blinded := rfl
@[simp] theorem raiseEnable_drawEpoch : (raiseEnable s).drawEpoch = s.drawEpoch := rfl

/-! `setIdleEnable` -/

@[simp] theorem setIdleEnable_cfg (lvl : Level) : (setIdleEnable lvl s).cfg = s.cfg := rfl
@[simp] theorem setIdleEnable_pins (lvl : Level) : (setIdleEnable lvl s).pins = s.pins.set .en lvl := rfl
@[simp] theorem setIdleEnable_seq (lvl : Level) : (setIdleEnable lvl s).seq = s.seq := rfl
@[simp] theorem setIdleEnable_opreg (lvl : Level) : (setIdleEnable lvl s).opreg = s.opreg := rfl
@[simp] theorem setIdleEnable_rLen (lvl : Level) : (setIdleEnable lvl s).rLen = s.rLen := rfl
@[simp] theorem setIdleEnable_tKind (lvl : Level) : (setIdleEnable lvl s).tKind = s.tKind := rfl
@[simp] theorem setIdleEnable_tVal (lvl : Level) : (setIdleEnable lvl s).tVal = s.tVal := rfl
@[simp] theorem setIdleEnable_cnt (lvl : Level) : (setIdleEnable lvl s).cnt = s.cnt := rfl
@[simp] theorem setIdleEnable_idx (lvl : Level) : (setIdleEnable lvl s).idx = s.idx := rfl
@[simp] theorem setIdleEnable_dropped (lvl : Level) : (setIdleEnable lvl s).dropped = s.dropped := rfl
@[simp] theorem setIdleEnable_fault (lvl : Level) : (setIdleEnable lvl s).fault = s.fault := rfl
@[simp] theorem setIdleEnable_msg (lvl : Level) : (setIdleEnable lvl s).msg = s.msg := rfl
@[simp] theorem setIdleEnable_msgLen (lvl : Level) : (setIdleEnable lvl s).msgLen = s.msgLen := rfl
@[simp] theorem setIdleEnable_responses (lvl : Level) : (setIdleEnable lvl s).responses = s.responses := rfl
@[simp] theorem setIdleEnable_trace (lvl : Level) : (setIdleEnable lvl s).trace = s.trace ++ [.set .en lvl] := rfl
@[simp] theorem setIdleEnable_inReset (lvl : Level) : (setIdleEnable lvl s).inReset = s.inReset := rfl
@[simp] theorem setIdleEnable_resetIn (lvl : Level) : (setIdleEnable lvl s).resetIn = s.resetIn := rfl
@[simp] theorem setIdleEnable_host (lvl : Level) : (setIdleEnable lvl s).host = s.host := rfl
@[simp] theorem setIdleEnable_strobe (lvl : Level) : (setIdleEnable lvl s).strobe = s.strobe := rfl
@[simp] theorem setIdleEnable_observer (lvl : Level) : (setIdleEnable lvl s).observer = if s.pins.en = .driven .low then s.observer else Observer.lost := rfl
@[simp] theorem setIdleEnable_drawEpoch (lvl : Level) : (setIdleEnable lvl s).drawEpoch = s.drawEpoch := rfl

/-! `accept` -/

@[simp] theorem accept_cfg (w : ReqWord) (prog : List Micro) : (accept w prog s).cfg = s.cfg := rfl
@[simp] theorem accept_pins (w : ReqWord) (prog : List Micro) : (accept w prog s).pins = s.pins := rfl
@[simp] theorem accept_seq (w : ReqWord) (prog : List Micro) : (accept w prog s).seq = if prog.isEmpty then .idle else .pos 0 := rfl
@[simp] theorem accept_opreg (w : ReqWord) (prog : List Micro) : (accept w prog s).opreg = w := rfl
@[simp] theorem accept_rLen (w : ReqWord) (prog : List Micro) : (accept w prog s).rLen = s.rLen := rfl
@[simp] theorem accept_tKind (w : ReqWord) (prog : List Micro) : (accept w prog s).tKind = s.tKind := rfl
@[simp] theorem accept_tVal (w : ReqWord) (prog : List Micro) : (accept w prog s).tVal = s.tVal := rfl
@[simp] theorem accept_cnt (w : ReqWord) (prog : List Micro) : (accept w prog s).cnt = s.cnt := rfl
@[simp] theorem accept_idx (w : ReqWord) (prog : List Micro) : (accept w prog s).idx = s.idx := rfl
@[simp] theorem accept_dropped (w : ReqWord) (prog : List Micro) : (accept w prog s).dropped = s.dropped := rfl
@[simp] theorem accept_fault (w : ReqWord) (prog : List Micro) : (accept w prog s).fault = s.fault := rfl
@[simp] theorem accept_msg (w : ReqWord) (prog : List Micro) : (accept w prog s).msg = s.msg := rfl
@[simp] theorem accept_msgLen (w : ReqWord) (prog : List Micro) : (accept w prog s).msgLen = s.msgLen := rfl
@[simp] theorem accept_responses (w : ReqWord) (prog : List Micro) : (accept w prog s).responses = s.responses := rfl
@[simp] theorem accept_trace (w : ReqWord) (prog : List Micro) : (accept w prog s).trace = s.trace := rfl
@[simp] theorem accept_inReset (w : ReqWord) (prog : List Micro) : (accept w prog s).inReset = s.inReset := rfl
@[simp] theorem accept_resetIn (w : ReqWord) (prog : List Micro) : (accept w prog s).resetIn = s.resetIn := rfl
@[simp] theorem accept_host (w : ReqWord) (prog : List Micro) : (accept w prog s).host = s.host := rfl
@[simp] theorem accept_strobe (w : ReqWord) (prog : List Micro) : (accept w prog s).strobe = s.strobe := rfl
@[simp] theorem accept_observer (w : ReqWord) (prog : List Micro) : (accept w prog s).observer = s.observer := rfl
@[simp] theorem accept_drawEpoch (w : ReqWord) (prog : List Micro) : (accept w prog s).drawEpoch = s.drawEpoch := rfl

/-! `renderLatches` -/

@[simp] theorem renderLatches_cfg : (renderLatches s).cfg = s.cfg := rfl
@[simp] theorem renderLatches_pins : (renderLatches s).pins = s.pins := rfl
@[simp] theorem renderLatches_seq : (renderLatches s).seq = s.seq := rfl
@[simp] theorem renderLatches_opreg : (renderLatches s).opreg = s.opreg := rfl
@[simp] theorem renderLatches_rLen : (renderLatches s).rLen = s.msgLen := rfl
@[simp] theorem renderLatches_tKind : (renderLatches s).tKind = s.tKind := rfl
@[simp] theorem renderLatches_tVal : (renderLatches s).tVal = s.tVal := rfl
@[simp] theorem renderLatches_cnt : (renderLatches s).cnt = 0 := rfl
@[simp] theorem renderLatches_idx : (renderLatches s).idx = 0 := rfl
@[simp] theorem renderLatches_dropped : (renderLatches s).dropped = false := rfl
@[simp] theorem renderLatches_fault : (renderLatches s).fault = s.fault := rfl
@[simp] theorem renderLatches_msg : (renderLatches s).msg = s.msg := rfl
@[simp] theorem renderLatches_msgLen : (renderLatches s).msgLen = s.msgLen := rfl
@[simp] theorem renderLatches_responses : (renderLatches s).responses = s.responses := rfl
@[simp] theorem renderLatches_trace : (renderLatches s).trace = s.trace := rfl
@[simp] theorem renderLatches_inReset : (renderLatches s).inReset = s.inReset := rfl
@[simp] theorem renderLatches_resetIn : (renderLatches s).resetIn = s.resetIn := rfl
@[simp] theorem renderLatches_host : (renderLatches s).host = s.host := rfl
@[simp] theorem renderLatches_strobe : (renderLatches s).strobe = s.strobe := rfl
@[simp] theorem renderLatches_observer : (renderLatches s).observer = s.observer := rfl
@[simp] theorem renderLatches_drawEpoch : (renderLatches s).drawEpoch = s.drawEpoch := rfl

/-! `raiseFault` -/

@[simp] theorem raiseFault_cfg (code : Code) : (raiseFault code s).cfg = s.cfg := rfl
@[simp] theorem raiseFault_pins (code : Code) : (raiseFault code s).pins = s.pins := rfl
@[simp] theorem raiseFault_seq (code : Code) : (raiseFault code s).seq = s.seq := rfl
@[simp] theorem raiseFault_opreg (code : Code) : (raiseFault code s).opreg = s.opreg := rfl
@[simp] theorem raiseFault_rLen (code : Code) : (raiseFault code s).rLen = s.rLen := rfl
@[simp] theorem raiseFault_tKind (code : Code) : (raiseFault code s).tKind = s.tKind := rfl
@[simp] theorem raiseFault_tVal (code : Code) : (raiseFault code s).tVal = s.tVal := rfl
@[simp] theorem raiseFault_cnt (code : Code) : (raiseFault code s).cnt = s.cnt := rfl
@[simp] theorem raiseFault_idx (code : Code) : (raiseFault code s).idx = s.idx := rfl
@[simp] theorem raiseFault_dropped (code : Code) : (raiseFault code s).dropped = s.dropped := rfl
@[simp] theorem raiseFault_fault (code : Code) : (raiseFault code s).fault = stickyFault s.fault code := rfl
@[simp] theorem raiseFault_msg (code : Code) : (raiseFault code s).msg = s.msg := rfl
@[simp] theorem raiseFault_msgLen (code : Code) : (raiseFault code s).msgLen = s.msgLen := rfl
@[simp] theorem raiseFault_responses (code : Code) : (raiseFault code s).responses = s.responses ++ [code] := rfl
@[simp] theorem raiseFault_trace (code : Code) : (raiseFault code s).trace = s.trace := rfl
@[simp] theorem raiseFault_inReset (code : Code) : (raiseFault code s).inReset = s.inReset := rfl
@[simp] theorem raiseFault_resetIn (code : Code) : (raiseFault code s).resetIn = s.resetIn := rfl
@[simp] theorem raiseFault_host (code : Code) : (raiseFault code s).host = s.host := rfl
@[simp] theorem raiseFault_strobe (code : Code) : (raiseFault code s).strobe = s.strobe := rfl
@[simp] theorem raiseFault_observer (code : Code) : (raiseFault code s).observer = s.observer := rfl
@[simp] theorem raiseFault_drawEpoch (code : Code) : (raiseFault code s).drawEpoch = s.drawEpoch := rfl

/-! `observe` -/

@[simp] theorem observe_cfg (w : BusWord) (f : Display → Display) : (observe w f s).cfg = s.cfg := rfl
@[simp] theorem observe_pins (w : BusWord) (f : Display → Display) : (observe w f s).pins = s.pins := rfl
@[simp] theorem observe_seq (w : BusWord) (f : Display → Display) : (observe w f s).seq = s.seq := rfl
@[simp] theorem observe_opreg (w : BusWord) (f : Display → Display) : (observe w f s).opreg = s.opreg := rfl
@[simp] theorem observe_rLen (w : BusWord) (f : Display → Display) : (observe w f s).rLen = s.rLen := rfl
@[simp] theorem observe_tKind (w : BusWord) (f : Display → Display) : (observe w f s).tKind = s.tKind := rfl
@[simp] theorem observe_tVal (w : BusWord) (f : Display → Display) : (observe w f s).tVal = s.tVal := rfl
@[simp] theorem observe_cnt (w : BusWord) (f : Display → Display) : (observe w f s).cnt = s.cnt := rfl
@[simp] theorem observe_idx (w : BusWord) (f : Display → Display) : (observe w f s).idx = s.idx := rfl
@[simp] theorem observe_dropped (w : BusWord) (f : Display → Display) : (observe w f s).dropped = s.dropped := rfl
@[simp] theorem observe_fault (w : BusWord) (f : Display → Display) : (observe w f s).fault = s.fault := rfl
@[simp] theorem observe_msg (w : BusWord) (f : Display → Display) : (observe w f s).msg = s.msg := rfl
@[simp] theorem observe_msgLen (w : BusWord) (f : Display → Display) : (observe w f s).msgLen = s.msgLen := rfl
@[simp] theorem observe_responses (w : BusWord) (f : Display → Display) : (observe w f s).responses = s.responses := rfl
@[simp] theorem observe_trace (w : BusWord) (f : Display → Display) : (observe w f s).trace = s.trace := rfl
@[simp] theorem observe_inReset (w : BusWord) (f : Display → Display) : (observe w f s).inReset = s.inReset := rfl
@[simp] theorem observe_resetIn (w : BusWord) (f : Display → Display) : (observe w f s).resetIn = s.resetIn := rfl
@[simp] theorem observe_host (w : BusWord) (f : Display → Display) : (observe w f s).host = s.host := rfl
@[simp] theorem observe_strobe (w : BusWord) (f : Display → Display) : (observe w f s).strobe = none := rfl
@[simp] theorem observe_observer (w : BusWord) (f : Display → Display) : (observe w f s).observer = s.observer.take w f := rfl
@[simp] theorem observe_drawEpoch (w : BusWord) (f : Display → Display) : (observe w f s).drawEpoch = s.drawEpoch := rfl

/-! `observeOther` -/

@[simp] theorem observeOther_cfg : (observeOther s).cfg = s.cfg := rfl
@[simp] theorem observeOther_pins : (observeOther s).pins = s.pins := rfl
@[simp] theorem observeOther_seq : (observeOther s).seq = s.seq := rfl
@[simp] theorem observeOther_opreg : (observeOther s).opreg = s.opreg := rfl
@[simp] theorem observeOther_rLen : (observeOther s).rLen = s.rLen := rfl
@[simp] theorem observeOther_tKind : (observeOther s).tKind = s.tKind := rfl
@[simp] theorem observeOther_tVal : (observeOther s).tVal = s.tVal := rfl
@[simp] theorem observeOther_cnt : (observeOther s).cnt = s.cnt := rfl
@[simp] theorem observeOther_idx : (observeOther s).idx = s.idx := rfl
@[simp] theorem observeOther_dropped : (observeOther s).dropped = s.dropped := rfl
@[simp] theorem observeOther_fault : (observeOther s).fault = s.fault := rfl
@[simp] theorem observeOther_msg : (observeOther s).msg = s.msg := rfl
@[simp] theorem observeOther_msgLen : (observeOther s).msgLen = s.msgLen := rfl
@[simp] theorem observeOther_responses : (observeOther s).responses = s.responses := rfl
@[simp] theorem observeOther_trace : (observeOther s).trace = s.trace := rfl
@[simp] theorem observeOther_inReset : (observeOther s).inReset = s.inReset := rfl
@[simp] theorem observeOther_resetIn : (observeOther s).resetIn = s.resetIn := rfl
@[simp] theorem observeOther_host : (observeOther s).host = s.host := rfl
@[simp] theorem observeOther_strobe : (observeOther s).strobe = none := rfl
@[simp] theorem observeOther_observer : (observeOther s).observer = Observer.lost := rfl
@[simp] theorem observeOther_drawEpoch : (observeOther s).drawEpoch = s.drawEpoch := rfl

/-! `releaseReset` -/

@[simp] theorem releaseReset_cfg : (releaseReset s).cfg = s.cfg := rfl
@[simp] theorem releaseReset_pins : (releaseReset s).pins = s.pins := rfl
@[simp] theorem releaseReset_seq : (releaseReset s).seq = s.seq := rfl
@[simp] theorem releaseReset_opreg : (releaseReset s).opreg = s.opreg := rfl
@[simp] theorem releaseReset_rLen : (releaseReset s).rLen = s.rLen := rfl
@[simp] theorem releaseReset_tKind : (releaseReset s).tKind = s.tKind := rfl
@[simp] theorem releaseReset_tVal : (releaseReset s).tVal = s.tVal := rfl
@[simp] theorem releaseReset_cnt : (releaseReset s).cnt = s.cnt := rfl
@[simp] theorem releaseReset_idx : (releaseReset s).idx = s.idx := rfl
@[simp] theorem releaseReset_dropped : (releaseReset s).dropped = s.dropped := rfl
@[simp] theorem releaseReset_fault : (releaseReset s).fault = s.fault := rfl
@[simp] theorem releaseReset_msg : (releaseReset s).msg = s.msg := rfl
@[simp] theorem releaseReset_msgLen : (releaseReset s).msgLen = s.msgLen := rfl
@[simp] theorem releaseReset_responses : (releaseReset s).responses = s.responses := rfl
@[simp] theorem releaseReset_trace : (releaseReset s).trace = s.trace ++ cfgEvents := rfl
@[simp] theorem releaseReset_inReset : (releaseReset s).inReset = false := rfl
@[simp] theorem releaseReset_resetIn : (releaseReset s).resetIn = s.resetIn := rfl
@[simp] theorem releaseReset_host : (releaseReset s).host = s.host := rfl
@[simp] theorem releaseReset_strobe : (releaseReset s).strobe = s.strobe := rfl
@[simp] theorem releaseReset_observer : (releaseReset s).observer = s.observer := rfl
@[simp] theorem releaseReset_drawEpoch : (releaseReset s).drawEpoch = s.drawEpoch := rfl

/-! `enterReset` -/

@[simp] theorem enterReset_cfg : (enterReset s).cfg = s.cfg := rfl
@[simp] theorem enterReset_pins : (enterReset s).pins = PinLatches.undefined := rfl
@[simp] theorem enterReset_seq : (enterReset s).seq = .idle := rfl
@[simp] theorem enterReset_opreg : (enterReset s).opreg = 0 := rfl
@[simp] theorem enterReset_rLen : (enterReset s).rLen = 0 := rfl
@[simp] theorem enterReset_tKind : (enterReset s).tKind = .command := rfl
@[simp] theorem enterReset_tVal : (enterReset s).tVal = 0 := rfl
@[simp] theorem enterReset_cnt : (enterReset s).cnt = 0 := rfl
@[simp] theorem enterReset_idx : (enterReset s).idx = 0 := rfl
@[simp] theorem enterReset_dropped : (enterReset s).dropped = false := rfl
@[simp] theorem enterReset_fault : (enterReset s).fault = 0 := rfl
@[simp] theorem enterReset_msg : (enterReset s).msg = [] := rfl
@[simp] theorem enterReset_msgLen : (enterReset s).msgLen = 0 := rfl
@[simp] theorem enterReset_responses : (enterReset s).responses = [] := rfl
@[simp] theorem enterReset_trace : (enterReset s).trace = [] := rfl
@[simp] theorem enterReset_inReset : (enterReset s).inReset = true := rfl
@[simp] theorem enterReset_resetIn : (enterReset s).resetIn = s.resetIn := rfl
@[simp] theorem enterReset_host : (enterReset s).host = s.host := rfl
@[simp] theorem enterReset_strobe : (enterReset s).strobe = none := rfl
@[simp] theorem enterReset_observer : (enterReset s).observer = if s.pins.en = .driven .high then Observer.lost else s.observer := rfl
@[simp] theorem enterReset_drawEpoch : (enterReset s).drawEpoch = s.drawEpoch + 1 := rfl

/-! `dwell`: the trace, and either the strobe or the observer. -/

@[simp] theorem dwell_cfg : (dwell s).cfg = s.cfg := by unfold dwell; split <;> rfl
@[simp] theorem dwell_pins : (dwell s).pins = s.pins := by unfold dwell; split <;> rfl
@[simp] theorem dwell_seq : (dwell s).seq = s.seq := by unfold dwell; split <;> rfl
@[simp] theorem dwell_opreg : (dwell s).opreg = s.opreg := by unfold dwell; split <;> rfl
@[simp] theorem dwell_rLen : (dwell s).rLen = s.rLen := by unfold dwell; split <;> rfl
@[simp] theorem dwell_tKind : (dwell s).tKind = s.tKind := by unfold dwell; split <;> rfl
@[simp] theorem dwell_tVal : (dwell s).tVal = s.tVal := by unfold dwell; split <;> rfl
@[simp] theorem dwell_cnt : (dwell s).cnt = s.cnt := by unfold dwell; split <;> rfl
@[simp] theorem dwell_idx : (dwell s).idx = s.idx := by unfold dwell; split <;> rfl
@[simp] theorem dwell_dropped : (dwell s).dropped = s.dropped := by unfold dwell; split <;> rfl
@[simp] theorem dwell_fault : (dwell s).fault = s.fault := by unfold dwell; split <;> rfl
@[simp] theorem dwell_msg : (dwell s).msg = s.msg := by unfold dwell; split <;> rfl
@[simp] theorem dwell_msgLen : (dwell s).msgLen = s.msgLen := by unfold dwell; split <;> rfl
@[simp] theorem dwell_responses : (dwell s).responses = s.responses := by unfold dwell; split <;> rfl
@[simp] theorem dwell_trace : (dwell s).trace = s.trace ++ [.dwell s.cfg.dwellMs] := by unfold dwell; split <;> rfl
@[simp] theorem dwell_inReset : (dwell s).inReset = s.inReset := by unfold dwell; split <;> rfl
@[simp] theorem dwell_resetIn : (dwell s).resetIn = s.resetIn := by unfold dwell; split <;> rfl
@[simp] theorem dwell_host : (dwell s).host = s.host := by unfold dwell; split <;> rfl
@[simp] theorem dwell_drawEpoch : (dwell s).drawEpoch = s.drawEpoch := by unfold dwell; split <;> rfl

theorem dwell_of_word {w : BusWord} (h : s.pins.busWord? = some w) :
    dwell s = { s with trace := s.trace ++ [.dwell s.cfg.dwellMs], strobe := some w } := by
  simp [dwell, h]

/-! `advanceSeq`: the sequencer position, and the response at the end of the list. -/

variable (n len : Nat)

@[simp] theorem advanceSeq_cfg : (advanceSeq n len s).cfg = s.cfg := by unfold advanceSeq; split <;> rfl
@[simp] theorem advanceSeq_pins : (advanceSeq n len s).pins = s.pins := by unfold advanceSeq; split <;> rfl
@[simp] theorem advanceSeq_opreg : (advanceSeq n len s).opreg = s.opreg := by unfold advanceSeq; split <;> rfl
@[simp] theorem advanceSeq_rLen : (advanceSeq n len s).rLen = s.rLen := by unfold advanceSeq; split <;> rfl
@[simp] theorem advanceSeq_tKind : (advanceSeq n len s).tKind = s.tKind := by unfold advanceSeq; split <;> rfl
@[simp] theorem advanceSeq_tVal : (advanceSeq n len s).tVal = s.tVal := by unfold advanceSeq; split <;> rfl
@[simp] theorem advanceSeq_cnt : (advanceSeq n len s).cnt = s.cnt := by unfold advanceSeq; split <;> rfl
@[simp] theorem advanceSeq_idx : (advanceSeq n len s).idx = s.idx := by unfold advanceSeq; split <;> rfl
@[simp] theorem advanceSeq_dropped : (advanceSeq n len s).dropped = s.dropped := by unfold advanceSeq; split <;> rfl
@[simp] theorem advanceSeq_fault : (advanceSeq n len s).fault = s.fault := by unfold advanceSeq; split <;> rfl
@[simp] theorem advanceSeq_msg : (advanceSeq n len s).msg = s.msg := by unfold advanceSeq; split <;> rfl
@[simp] theorem advanceSeq_msgLen : (advanceSeq n len s).msgLen = s.msgLen := by unfold advanceSeq; split <;> rfl
@[simp] theorem advanceSeq_trace : (advanceSeq n len s).trace = s.trace := by unfold advanceSeq; split <;> rfl
@[simp] theorem advanceSeq_inReset : (advanceSeq n len s).inReset = s.inReset := by unfold advanceSeq; split <;> rfl
@[simp] theorem advanceSeq_resetIn : (advanceSeq n len s).resetIn = s.resetIn := by unfold advanceSeq; split <;> rfl
@[simp] theorem advanceSeq_host : (advanceSeq n len s).host = s.host := by unfold advanceSeq; split <;> rfl
@[simp] theorem advanceSeq_strobe : (advanceSeq n len s).strobe = s.strobe := by unfold advanceSeq; split <;> rfl
@[simp] theorem advanceSeq_observer : (advanceSeq n len s).observer = s.observer := by unfold advanceSeq; split <;> rfl
@[simp] theorem advanceSeq_drawEpoch : (advanceSeq n len s).drawEpoch = s.drawEpoch := by unfold advanceSeq; split <;> rfl
@[simp] theorem advanceSeq_seq :
    (advanceSeq n len s).seq = if n + 1 = len then .idle else .pos (n + 1) := by
  unfold advanceSeq; split <;> rfl
@[simp] theorem advanceSeq_responses :
    (advanceSeq n len s).responses = if n + 1 = len then s.responses ++ [codeOk] else s.responses := by
  unfold advanceSeq; split <;> rfl

/-! `LatchOp.apply` and `applyLatchOps`: only `CNT`, `IDX` and `DROPPED`. -/

variable (op : LatchOp) (ops : List LatchOp)

@[simp] theorem apply_cfg : (op.apply s).cfg = s.cfg := by cases op <;> rfl
@[simp] theorem apply_pins : (op.apply s).pins = s.pins := by cases op <;> rfl
@[simp] theorem apply_seq : (op.apply s).seq = s.seq := by cases op <;> rfl
@[simp] theorem apply_opreg : (op.apply s).opreg = s.opreg := by cases op <;> rfl
@[simp] theorem apply_rLen : (op.apply s).rLen = s.rLen := by cases op <;> rfl
@[simp] theorem apply_tKind : (op.apply s).tKind = s.tKind := by cases op <;> rfl
@[simp] theorem apply_tVal : (op.apply s).tVal = s.tVal := by cases op <;> rfl
@[simp] theorem apply_fault : (op.apply s).fault = s.fault := by cases op <;> rfl
@[simp] theorem apply_msg : (op.apply s).msg = s.msg := by cases op <;> rfl
@[simp] theorem apply_msgLen : (op.apply s).msgLen = s.msgLen := by cases op <;> rfl
@[simp] theorem apply_responses : (op.apply s).responses = s.responses := by cases op <;> rfl
@[simp] theorem apply_trace : (op.apply s).trace = s.trace := by cases op <;> rfl
@[simp] theorem apply_inReset : (op.apply s).inReset = s.inReset := by cases op <;> rfl
@[simp] theorem apply_resetIn : (op.apply s).resetIn = s.resetIn := by cases op <;> rfl
@[simp] theorem apply_host : (op.apply s).host = s.host := by cases op <;> rfl
@[simp] theorem apply_strobe : (op.apply s).strobe = s.strobe := by cases op <;> rfl
@[simp] theorem apply_observer : (op.apply s).observer = s.observer := by cases op <;> rfl
@[simp] theorem apply_drawEpoch : (op.apply s).drawEpoch = s.drawEpoch := by cases op <;> rfl

@[simp] theorem applyLatchOps_nil : applyLatchOps [] s = s := rfl
@[simp] theorem applyLatchOps_cons :
    applyLatchOps (op :: ops) s = applyLatchOps ops (op.apply s) := rfl

@[simp] theorem applyLatchOps_cfg : (applyLatchOps ops s).cfg = s.cfg := by
  induction ops generalizing s with
  | nil => rfl
  | cons op ops ih => simp [ih]
@[simp] theorem applyLatchOps_pins : (applyLatchOps ops s).pins = s.pins := by
  induction ops generalizing s with
  | nil => rfl
  | cons op ops ih => simp [ih]
@[simp] theorem applyLatchOps_seq : (applyLatchOps ops s).seq = s.seq := by
  induction ops generalizing s with
  | nil => rfl
  | cons op ops ih => simp [ih]
@[simp] theorem applyLatchOps_opreg : (applyLatchOps ops s).opreg = s.opreg := by
  induction ops generalizing s with
  | nil => rfl
  | cons op ops ih => simp [ih]
@[simp] theorem applyLatchOps_rLen : (applyLatchOps ops s).rLen = s.rLen := by
  induction ops generalizing s with
  | nil => rfl
  | cons op ops ih => simp [ih]
@[simp] theorem applyLatchOps_tKind : (applyLatchOps ops s).tKind = s.tKind := by
  induction ops generalizing s with
  | nil => rfl
  | cons op ops ih => simp [ih]
@[simp] theorem applyLatchOps_tVal : (applyLatchOps ops s).tVal = s.tVal := by
  induction ops generalizing s with
  | nil => rfl
  | cons op ops ih => simp [ih]
@[simp] theorem applyLatchOps_fault : (applyLatchOps ops s).fault = s.fault := by
  induction ops generalizing s with
  | nil => rfl
  | cons op ops ih => simp [ih]
@[simp] theorem applyLatchOps_msg : (applyLatchOps ops s).msg = s.msg := by
  induction ops generalizing s with
  | nil => rfl
  | cons op ops ih => simp [ih]
@[simp] theorem applyLatchOps_msgLen : (applyLatchOps ops s).msgLen = s.msgLen := by
  induction ops generalizing s with
  | nil => rfl
  | cons op ops ih => simp [ih]
@[simp] theorem applyLatchOps_responses : (applyLatchOps ops s).responses = s.responses := by
  induction ops generalizing s with
  | nil => rfl
  | cons op ops ih => simp [ih]
@[simp] theorem applyLatchOps_trace : (applyLatchOps ops s).trace = s.trace := by
  induction ops generalizing s with
  | nil => rfl
  | cons op ops ih => simp [ih]
@[simp] theorem applyLatchOps_inReset : (applyLatchOps ops s).inReset = s.inReset := by
  induction ops generalizing s with
  | nil => rfl
  | cons op ops ih => simp [ih]
@[simp] theorem applyLatchOps_resetIn : (applyLatchOps ops s).resetIn = s.resetIn := by
  induction ops generalizing s with
  | nil => rfl
  | cons op ops ih => simp [ih]
@[simp] theorem applyLatchOps_host : (applyLatchOps ops s).host = s.host := by
  induction ops generalizing s with
  | nil => rfl
  | cons op ops ih => simp [ih]
@[simp] theorem applyLatchOps_strobe : (applyLatchOps ops s).strobe = s.strobe := by
  induction ops generalizing s with
  | nil => rfl
  | cons op ops ih => simp [ih]
@[simp] theorem applyLatchOps_observer : (applyLatchOps ops s).observer = s.observer := by
  induction ops generalizing s with
  | nil => rfl
  | cons op ops ih => simp [ih]
@[simp] theorem applyLatchOps_drawEpoch : (applyLatchOps ops s).drawEpoch = s.drawEpoch := by
  induction ops generalizing s with
  | nil => rfl
  | cons op ops ih => simp [ih]

/-! `hostWrite`: only the message space (R53). -/

variable (h : HostWrite)

@[simp] theorem hostWrite_cfg : (hostWrite h s).cfg = s.cfg := by
  cases h <;> simp only [hostWrite] <;> split <;> rfl
@[simp] theorem hostWrite_pins : (hostWrite h s).pins = s.pins := by
  cases h <;> simp only [hostWrite] <;> split <;> rfl
@[simp] theorem hostWrite_seq : (hostWrite h s).seq = s.seq := by
  cases h <;> simp only [hostWrite] <;> split <;> rfl
@[simp] theorem hostWrite_opreg : (hostWrite h s).opreg = s.opreg := by
  cases h <;> simp only [hostWrite] <;> split <;> rfl
@[simp] theorem hostWrite_rLen : (hostWrite h s).rLen = s.rLen := by
  cases h <;> simp only [hostWrite] <;> split <;> rfl
@[simp] theorem hostWrite_tKind : (hostWrite h s).tKind = s.tKind := by
  cases h <;> simp only [hostWrite] <;> split <;> rfl
@[simp] theorem hostWrite_tVal : (hostWrite h s).tVal = s.tVal := by
  cases h <;> simp only [hostWrite] <;> split <;> rfl
@[simp] theorem hostWrite_cnt : (hostWrite h s).cnt = s.cnt := by
  cases h <;> simp only [hostWrite] <;> split <;> rfl
@[simp] theorem hostWrite_idx : (hostWrite h s).idx = s.idx := by
  cases h <;> simp only [hostWrite] <;> split <;> rfl
@[simp] theorem hostWrite_dropped : (hostWrite h s).dropped = s.dropped := by
  cases h <;> simp only [hostWrite] <;> split <;> rfl
@[simp] theorem hostWrite_fault : (hostWrite h s).fault = s.fault := by
  cases h <;> simp only [hostWrite] <;> split <;> rfl
@[simp] theorem hostWrite_responses : (hostWrite h s).responses = s.responses := by
  cases h <;> simp only [hostWrite] <;> split <;> rfl
@[simp] theorem hostWrite_trace : (hostWrite h s).trace = s.trace := by
  cases h <;> simp only [hostWrite] <;> split <;> rfl
@[simp] theorem hostWrite_inReset : (hostWrite h s).inReset = s.inReset := by
  cases h <;> simp only [hostWrite] <;> split <;> rfl
@[simp] theorem hostWrite_resetIn : (hostWrite h s).resetIn = s.resetIn := by
  cases h <;> simp only [hostWrite] <;> split <;> rfl
@[simp] theorem hostWrite_host : (hostWrite h s).host = s.host := by
  cases h <;> simp only [hostWrite] <;> split <;> rfl
@[simp] theorem hostWrite_strobe : (hostWrite h s).strobe = s.strobe := by
  cases h <;> simp only [hostWrite] <;> split <;> rfl
@[simp] theorem hostWrite_observer : (hostWrite h s).observer = s.observer := by
  cases h <;> simp only [hostWrite] <;> split <;> rfl
@[simp] theorem hostWrite_drawEpoch : (hostWrite h s).drawEpoch = s.drawEpoch := by
  cases h <;> simp only [hostWrite] <;> split <;> rfl

/-! `BUSY` -/

theorem busy_iff : s.busy = true ↔ ∃ n, s.seq = .pos n := by
  unfold State.busy
  cases s.seq <;> simp

theorem not_busy_iff : s.busy = false ↔ s.seq = .idle := by
  unfold State.busy
  cases s.seq <;> simp

/-! The visible grid (R200, R206) -/

theorem Grid.get_set (g : Grid) (r : Row) {c : Nat} (v : Byte) (h : c < 16) :
    (g.set r c v).get r c = some v := by
  simp [Grid.set, Grid.get, h]

/-- A store leaves every other position as it was. -/
theorem Grid.get_set_ne (g : Grid) {r r' : Row} {c c' : Nat} (v : Byte) (h : (r', c') ≠ (r, c)) :
    (g.set r c v).get r' c' = g.get r' c' := by
  have hi : r.index = r'.index ↔ r = r' := by cases r <;> cases r' <;> decide
  by_cases hr : r = r'
  · subst hr
    have hc : c ≠ c' := fun hc => h (by rw [hc])
    simp [Grid.set, Grid.get, Vector.getElem?_setIfInBounds_ne hc]
  · have hv : r.index.val ≠ r'.index.val := fun hv => hr (hi.1 (Fin.ext hv))
    simp [Grid.set, Grid.get, Vector.getElem_set_ne _ _ hv]

/-- A grid with every cell the same reads so at every visible position. -/
theorem Grid.get_filled (v : Option Byte) (r : Row) (c : Nat) :
    (Grid.filled v).get r c = if c < 16 then v else none := by
  by_cases h : c < 16 <;> simp [Grid.filled, Grid.get, h]

/-! The named constants that no list or type carries by itself (R7) -/

theorem advanceCount_lt (col : StartCol) : advanceCount col < 256 := col.isLt

theorem pinMap_ids_length (m : PinMap) : m.ids.length = NSIG := by simp [PinMap.ids]

/-- The eleven events of R261 written out. -/
theorem cfgEvents_eq : cfgEvents =
    [.cfg .rs, .cfg .rw, .cfg .en, .cfg (.d 0), .cfg (.d 1), .cfg (.d 2), .cfg (.d 3), .cfg (.d 4),
     .cfg (.d 5), .cfg (.d 6), .cfg (.d 7)] := rfl

/-- `Sig.all` names every signal once. -/
theorem sig_mem_all (sig : Sig) : sig ∈ Sig.all.toList := by
  cases sig with
  | d b => revert b; decide
  | rs | rw | en => decide

/-! The observer's step (R202, R203, R221) -/

/-- The initialization trace written out (R203). -/
theorem initTrace_eq : initTrace = [0x030, 0x030, 0x030, 0x038, 0x008, 0x001, 0x006] := rfl

/-- The initialization trace is complete exactly when its last word follows the first six. -/
theorem initSeen_complete {n : Nat} {w : BusWord} :
    initSeen n w = initTrace.length ↔ n = 6 ∧ w = 0x006 := by
  unfold initSeen
  constructor
  · split
    · rename_i h
      intro hn
      obtain rfl : n = 6 := by simpa [initTrace_eq] using hn
      exact ⟨rfl, by simpa [initTrace_eq] using h.symm⟩
    · split
      · split <;> simp [initTrace_eq, INIT_WAKE_COUNT]
      · simp [initTrace_eq]
  · rintro ⟨rfl, rfl⟩
    rfl

/-- A word that is not of the trace starts it anew. -/
theorem initSeen_other {w : BusWord} (n : Nat) (h : w ∉ initTrace) : initSeen n w = 0 := by
  unfold initSeen
  rw [if_neg fun hn => h (List.mem_of_getElem? hn), if_neg fun hw => h (by rw [hw]; decide)]

variable (w : BusWord) (f : Display → Display) {o : Observer}

theorem take_ready (h : o.phase = .ready) (hw : ¬ (o.seen = 6 ∧ w = 0x006)) :
    o.take w f = { phase := .ready, seen := initSeen o.seen w, display := f o.display } := by
  simp only [Observer.take, h, mt initSeen_complete.1 hw, if_false]

theorem take_waiting (h : o.phase = .waiting) (hw : ¬ (o.seen = 6 ∧ w = 0x006)) :
    o.take w f = { phase := .waiting, seen := initSeen o.seen w, display := o.display.forget } := by
  simp only [Observer.take, h, mt initSeen_complete.1 hw, if_false]

theorem take_blind (h : o.phase = .blind) :
    o.take w f = { phase := .waiting, seen := 0, display := o.display.forget } := by
  simp [Observer.take, h]

/-- The word that completes the trace, whether or not the controller was known. -/
theorem take_complete (h : o.phase ≠ .blind) (hn : o.seen = 6) :
    o.take 0x006 f =
      { phase := .ready, seen := 7
        display := (if o.phase = .ready then o.display else Display.initPrefix).setIncrement } := by
  have hs : initSeen o.seen 0x006 = initTrace.length := initSeen_complete.2 ⟨hn, rfl⟩
  have hl : initTrace.length = 7 := rfl
  unfold Observer.take
  cases hp : o.phase <;> simp_all

end Sys2Proof.Laws
end

