-- ==== Sys2Proof/Laws/Memory.lean ====
section
/-! SUPPORT. The message memory: a read after a write, and the canonical form every operation keeps. -/

namespace Sys2Proof.Laws

open Sys2Proof.Machine

variable {m : Memory} {a c : Nat} {b : Byte}

theorem write_head_addr (h : Memory.wf m) (x : Nat) (hx : ∀ e ∈ m, x < e.1) (hxa : x < a) :
    ∀ e ∈ Memory.write m a b, x < e.1 := by
  induction m with
  | nil => simpa [Memory.write] using hxa
  | cons e m ih =>
    obtain ⟨y, v⟩ := e
    have hm : Memory.wf m := (List.pairwise_cons.1 h).2
    simp only [Memory.write]
    split
    · rintro e (_ | ⟨_, he⟩)
      · exact hxa
      · exact hx e he
    · split
      · rintro e (_ | ⟨_, he⟩)
        · exact hxa
        · exact hx e (List.mem_cons_of_mem _ he)
      · rintro e (_ | ⟨_, he⟩)
        · exact hx _ List.mem_cons_self
        · exact ih hm (fun e he => hx e (List.mem_cons_of_mem _ he)) e he

/-- A write keeps the addresses strictly rising. -/
theorem write_wf (h : Memory.wf m) (a : Nat) (b : Byte) : Memory.wf (Memory.write m a b) := by
  induction m with
  | nil => simp [Memory.write, Memory.wf]
  | cons e m ih =>
    obtain ⟨y, v⟩ := e
    have hc := List.pairwise_cons.1 h
    have hm : Memory.wf m := hc.2
    have hy : ∀ e ∈ m, y < e.1 := fun e he => hc.1 e.1 (List.mem_map_of_mem he)
    simp only [Memory.write]
    split
    · rename_i hay
      refine List.pairwise_cons.2 ⟨?_, h⟩
      intro z hz
      obtain ⟨e, he, rfl⟩ := List.mem_map.1 hz
      rcases List.mem_cons.1 he with rfl | he
      · exact hay
      · exact lt_trans hay (hy e he)
    · split
      · rename_i heq
        subst heq
        exact List.pairwise_cons.2 ⟨hc.1, hm⟩
      · rename_i h1 h2
        refine List.pairwise_cons.2 ⟨?_, ih hm⟩
        intro z hz
        obtain ⟨e, he, rfl⟩ := List.mem_map.1 hz
        exact write_head_addr hm y hy (by omega) e he

/-- A write below the capacity keeps every listed address below it. -/
theorem write_below {cap : Nat} (h : Memory.below m cap) (ha : a < cap) :
    Memory.below (Memory.write m a b) cap := by
  induction m with
  | nil => simpa [Memory.write, Memory.below] using ha
  | cons e m ih =>
    obtain ⟨y, v⟩ := e
    have hm : Memory.below m cap := fun e he => h e (List.mem_cons_of_mem _ he)
    simp only [Memory.write]
    split
    · rintro e (_ | ⟨_, he⟩)
      · exact ha
      · exact h e he
    · split
      · rintro e (_ | ⟨_, he⟩)
        · exact ha
        · exact hm e he
      · rintro e (_ | ⟨_, he⟩)
        · exact h _ List.mem_cons_self
        · exact ih hm e he

/-- A read after a write to the same address gives the byte written. -/
@[simp] theorem read_write_same : Memory.read? (Memory.write m a b) a = some b := by
  induction m with
  | nil => simp [Memory.write, Memory.read?]
  | cons e m ih =>
    obtain ⟨y, v⟩ := e
    simp only [Memory.write]
    split
    · simp [Memory.read?]
    · split
      · simp [Memory.read?]
      · rename_i h1 h2
        simp [Memory.read?, h2, ih]

/-- A write leaves every other address alone. -/
theorem read_write_other (h : c ≠ a) : Memory.read? (Memory.write m a b) c = Memory.read? m c := by
  induction m with
  | nil => simp [Memory.write, Memory.read?, h]
  | cons e m ih =>
    obtain ⟨y, v⟩ := e
    simp only [Memory.write]
    split
    · simp [Memory.read?, h]
    · split
      · rename_i h1 h2
        subst h2
        simp [Memory.read?, h]
      · simp only [Memory.read?]
        split
        · rfl
        · exact ih

/-- Both host writes keep the canonical form. -/
theorem hostWrite_wf {s : State} (hw : HostWrite) (h : s.msg.wf ∧ s.msg.below s.cfg.msgCap) :
    (hostWrite hw s).msg.wf ∧ (hostWrite hw s).msg.below s.cfg.msgCap := by
  cases hw with
  | byte a b =>
    simp only [hostWrite]
    split
    · rename_i ha
      exact ⟨write_wf h.1 a b, write_below h.2 ha⟩
    · exact h
  | len n =>
    simp only [hostWrite]
    split <;> exact h

/-- The memory after reset is in canonical form: nothing is listed. -/
theorem reset_memory_wf (c : Config) :
    (State.resetWith c).msg.wf ∧ (State.resetWith c).msg.below c.msgCap := by
  simp [State.resetWith, Memory.below, Memory.wf]

end Sys2Proof.Laws
end

