-- ==== Sys2Proof/Laws/Ops.lean ====
section
/-! SUPPORT. The pin latches, and what one position of an event list can do. -/

namespace Sys2Proof.Laws

open Sys2Proof.Machine

/-! ### The latches -/

variable (p : PinLatches) (sig sig' : Sig) (lvl : Level)

@[simp] theorem get_set_same : (p.set sig lvl).get sig = .driven lvl := by
  cases sig <;> simp [PinLatches.set, PinLatches.get]

theorem get_set_other (h : sig' ≠ sig) : (p.set sig lvl).get sig' = p.get sig' := by
  cases sig <;> cases sig' <;> simp_all [PinLatches.set, PinLatches.get]
  rw [Vector.getElem_set_ne]
  omega

@[simp] theorem set_rw_of_ne (h : sig ≠ .rw) : (p.set sig lvl).rw = p.rw := by
  cases sig <;> simp_all [PinLatches.set]

@[simp] theorem set_en_of_ne (h : sig ≠ .en) : (p.set sig lvl).en = p.en := by
  cases sig <;> simp_all [PinLatches.set]

@[simp] theorem set_rw_rw : (p.set .rw lvl).rw = .driven lvl := rfl
@[simp] theorem set_en_en : (p.set .en lvl).en = .driven lvl := rfl

/-! ### One position -/

/-- What one position changes, whatever it is: the latches of the sequencer's transfer and counters, the
pins, the trace by one event, and what the observer is left with. The rest of the engine, the message
and the ports stay (R20, R110). -/
theorem perform_frame {m : Micro} {s s' : State} (h : perform m s = .next s') :
    s'.cfg = s.cfg ∧ s'.seq = s.seq ∧ s'.opreg = s.opreg ∧ s'.rLen = s.rLen ∧
    s'.fault = s.fault ∧ s'.msg = s.msg ∧ s'.msgLen = s.msgLen ∧ s'.responses = s.responses ∧
    s'.inReset = s.inReset ∧ s'.resetIn = s.resetIn ∧ s'.host = s.host ∧
    s'.drawEpoch = s.drawEpoch ∧ ∃ e, s'.trace = s.trace ++ [e] := by
  cases m with
  | forceLow sig =>
    cases sig <;>
    · simp only [perform, Host.Outcome.next.injEq] at h
      subst h
      simp
  | phase ph x =>
    cases ph with
    | rw =>
      simp only [perform, beginTransfer] at h
      split at h
      · cases h
        simp
      · cases h
    | rs | d b | enh | enl =>
      simp only [perform, Host.Outcome.next.injEq] at h
      subst h
      simp
    | dwell =>
      simp only [perform, Host.Outcome.next.injEq] at h
      subst h
      simp

/-- A position stops the machine only as the first of a character's transfer, at an index that is not below
`MSG_CAP` (R52). -/
theorem perform_stops {m : Micro} {s : State} (h : Stops (perform m s)) :
    ∃ x, m = .phase .rw x ∧ x.src = .msg ∧ s.cfg.msgCap ≤ s.idx ∧
      perform m s = .fault .messageOutOfRange := by
  cases m with
  | forceLow sig => cases sig <;> exact absurd rfl (h _)
  | phase ph x =>
    cases ph with
    | rw =>
      refine ⟨x, rfl, ?_⟩
      simp only [perform, beginTransfer] at h ⊢
      split at h
      · exact absurd rfl (h _)
      · rename_i hv
        cases hx : x.src with
        | lit v => simp [hx, Src.value?] at hv
        | msg =>
          simp only [hx, Src.value?, State.memRead] at hv ⊢
          split at hv
          · cases hv
          · rename_i hlt
            exact ⟨trivial, Nat.le_of_not_lt hlt, trivial⟩
    | rs | d b | enh | dwell | enl => exact absurd rfl (h _)

/-- `performAt` performs the position and moves `SEQ` on (R23). -/
theorem performAt_next {prog : List Micro} {n : Nat} {s s' : State}
    (h : performAt prog n s = .next s') :
    ∃ m s1, prog[n]? = some m ∧ perform m s = .next s1 ∧ s' = advanceSeq n prog.length s1 := by
  unfold performAt at h
  split at h
  · cases h
  · rename_i m hm
    split at h
    · rename_i s1 h1
      cases h
      exact ⟨m, s1, hm, h1, rfl⟩
    · cases h
    · cases h

end Sys2Proof.Laws
end

