-- ==== Sys2Proof/Laws/Step.lean ====
section
/-! SUPPORT. Said once: what exec can answer, and what one step can do. -/

namespace Sys2Proof.Laws

open Sys2Proof Sys2Proof.Machine

/-- The latches a request takes at acceptance besides `OPREG` and `SEQ`: RENDER's, and none of another (R88). -/
def acceptLatches : Instr → State → State
  | .render _ _ _, s => renderLatches s
  | _, s => s

/-- The one request whose acceptance looks at the length (R92). -/
def isRender : Instr → Bool
  | .render _ _ _ => true
  | _ => false

/-- A bus word's meaning is the observer's step on it (R202). -/
theorem exec_bus {i : Instr} {w : BusWord} (h : encode i = .bus w) (s : State) :
    exec i s = .next (observe w (busEffect s.cfg.obs06Moves i) s) := by
  cases i <;> simp [encode] at h <;> subst h <;> rfl

/-- A request's meaning while the engine is busy: nothing (R88). -/
theorem exec_busy {i : Instr} {w : ReqWord} (h : encode i = .request w) {s : State}
    (hb : s.busy = true) : exec i s = .next s := by
  cases i <;> simp [encode] at h <;>
    simp [exec, execInit, execRender, execWcmd, execWdata, execClr, execHome, execCshl, execCshr,
      execDshl, execDshr, execDoff, execDoffc, execDon, execDonb, execMcl, execMcr, execSdl, execSdr,
      execRow0, execRow1, request, hb]

/-- A request's meaning while the engine is idle: `Fault(2)` for a RENDER whose length is out of range (R92),
else acceptance (R88). -/
theorem exec_idle {i : Instr} {w : ReqWord} (h : encode i = .request w) {s : State}
    (hi : s.seq = .idle) :
    exec i s =
      if isRender i = true ∧ s.cfg.msgCap < s.msgLen then
        .next (raiseFault codeLengthRange s)
      else .next (accept w (programOf s.msgLen i) (acceptLatches i s)) := by
  have hb : s.busy = false := not_busy_iff s |>.2 hi
  have hb' : (renderLatches s).busy = false := hb
  cases i <;> simp [encode] at h <;> subst h <;>
    simp [exec, execInit, execRender, execWcmd, execWdata, execClr, execHome, execCshl, execCshr,
      execDshl, execDshr, execDoff, execDoffc, execDon, execDonb, execMcl, execMcr, execSdl, execSdr,
      execRow0, execRow1, request, hb, hb', programOf, acceptLatches, isRender]

/-- `exec` answers a next state on every instruction and state. -/
theorem exec_total (i : Instr) (s : State) : ∃ s', exec i s = .next s' := by
  cases h : encode i with
  | bus w => exact ⟨_, exec_bus h s⟩
  | request w =>
    cases hb : s.busy with
    | true => exact ⟨_, exec_busy h hb⟩
    | false =>
      rw [exec_idle h (not_busy_iff s |>.1 hb)]
      split <;> exact ⟨_, rfl⟩

/-- What `exec` can answer. -/
theorem exec_cases {i : Instr} {s s' : State} (h : exec i s = .next s') :
    (∃ w, encode i = .bus w ∧ s' = observe w (busEffect s.cfg.obs06Moves i) s) ∨
    (∃ w, encode i = .request w ∧
      (s.busy = true ∧ s' = s ∨
       s.seq = .idle ∧ s.cfg.msgCap < s.msgLen ∧ s' = raiseFault codeLengthRange s ∨
       s.seq = .idle ∧ (isRender i = true → s.msgLen ≤ s.cfg.msgCap) ∧
         s' = accept w (programOf s.msgLen i) (acceptLatches i s))) := by
  cases he : encode i with
  | bus w =>
    rw [exec_bus he] at h
    cases h
    exact .inl ⟨w, rfl, rfl⟩
  | request w =>
    refine .inr ⟨w, rfl, ?_⟩
    cases hb : s.busy with
    | true =>
      rw [exec_busy he hb] at h
      cases h
      exact .inl ⟨rfl, rfl⟩
    | false =>
      have hi := not_busy_iff s |>.1 hb
      rw [exec_idle he hi] at h
      split at h
      · rename_i hc
        cases h
        exact .inr (.inl ⟨hi, hc.2, rfl⟩)
      · rename_i hc
        cases h
        exact .inr (.inr ⟨hi, fun hr => by
          by_contra hlt
          exact hc ⟨hr, by omega⟩, rfl⟩)

/-- The state the engine's step begins with, the reset input's present level gone by. -/
def tickReset (s : State) : State := { s with resetIn := s.resetIn.tail }

/-- What a request word at the port of the idle engine can do (R88, R90). -/
theorem presentWord_cases {w : ReqWord} {s s' : State} (h : presentWord w s = .next s') :
    (∃ i, decodeRequest w = .ok i ∧ exec i s = .next s') ∨
    ((∀ i, decodeRequest w ≠ .ok i) ∧ s' = raiseFault codeIllegalRequest s) := by
  unfold presentWord at h
  split at h
  · rename_i i hi
    exact .inl ⟨i, hi, h⟩
  · rename_i e he
    cases h
    exact .inr ⟨by simp [he], rfl⟩

/-- What the host's turn can do (R53, R88, R237). -/
theorem hostTurn_cases {s s' : State} (h : hostTurn s = .next s') :
    (s.host = [] ∧ s' = s) ∨
    (∃ t, s.host = .quiet :: t ∧ s' = { s with host := t }) ∨
    (∃ hw t, s.host = .write hw :: t ∧ s' = hostWrite hw { s with host := t }) ∨
    (∃ w t, s.host = .request w :: t ∧ presentWord w { s with host := t } = .next s') ∨
    (∃ hw w t, s.host = .both hw w :: t ∧
      presentWord w (hostWrite hw { s with host := t }) = .next s') := by
  unfold hostTurn at h
  split at h <;> rename_i hh
  · cases h
    exact .inl ⟨hh, rfl⟩
  · cases h
    exact .inr (.inl ⟨_, hh, rfl⟩)
  · cases h
    exact .inr (.inr (.inl ⟨_, _, hh, rfl⟩))
  · exact .inr (.inr (.inr (.inl ⟨_, _, hh, h⟩)))
  · exact .inr (.inr (.inr (.inr ⟨_, _, _, hh, h⟩)))

/-- Everything one step can do. -/
theorem step_cases {s s' : State} (h : step s = .next s') :
    s.cfg.wf = true ∧
    ((∃ w i, s.strobe = some w ∧ decodeBus w = .ok i ∧ exec i { s with strobe := none } = .next s') ∨
     (∃ w, s.strobe = some w ∧ (∀ i, decodeBus w ≠ .ok i) ∧ s' = observeOther s) ∨
     (s.strobe = none ∧ s.resetIn.head? = some true ∧ s' = enterReset (tickReset s)) ∨
     (s.strobe = none ∧ s.resetIn.head? ≠ some true ∧ s.inReset = true ∧
       s' = releaseReset (tickReset s)) ∨
     (∃ n, s.strobe = none ∧ s.resetIn.head? ≠ some true ∧ s.inReset = false ∧ s.seq = .pos n ∧
       performAt s.program n { tickReset s with host := hostTick s.host } = .next s') ∨
     (s.strobe = none ∧ s.resetIn.head? ≠ some true ∧ s.inReset = false ∧ s.seq = .idle ∧
       hostTurn (tickReset s) = .next s')) := by
  unfold step at h
  split at h
  case isFalse => cases h
  case isTrue hc =>
    refine ⟨hc, ?_⟩
    split at h
    · rename_i w hw
      unfold observerTurn at h
      split at h
      · rename_i i hi
        exact .inl ⟨w, i, hw, hi, h⟩
      · rename_i e he
        cases h
        exact .inr (.inl ⟨w, hw, by simp [he], rfl⟩)
    · rename_i hs
      have key : ∀ t, t = tickReset s → s.resetIn.head? ≠ some true → engineTurn t = .next s' →
          (s.strobe = none ∧ s.resetIn.head? ≠ some true ∧ s.inReset = true ∧
            s' = releaseReset (tickReset s)) ∨
          (∃ n, s.strobe = none ∧ s.resetIn.head? ≠ some true ∧ s.inReset = false ∧ s.seq = .pos n ∧
            performAt s.program n { tickReset s with host := hostTick s.host } = .next s') ∨
          (s.strobe = none ∧ s.resetIn.head? ≠ some true ∧ s.inReset = false ∧ s.seq = .idle ∧
            hostTurn (tickReset s) = .next s') := by
        rintro t rfl hr ht
        unfold engineTurn at ht
        split at ht
        · rename_i hin
          cases ht
          exact .inl ⟨hs, hr, hin, rfl⟩
        · rename_i hin
          have hin' : s.inReset = false := by simpa [tickReset] using hin
          split at ht
          · rename_i n hn
            exact .inr (.inl ⟨n, hs, hr, hin', hn, ht⟩)
          · rename_i hn
            exact .inr (.inr ⟨hs, hr, hin', hn, ht⟩)
      unfold portTurn at h
      split at h
      · rename_i t ht
        cases h
        refine .inr (.inr (.inl ⟨hs, by simp [ht], ?_⟩))
        simp [tickReset, ht]
      · rename_i t ht
        exact .inr (.inr (.inr (key _ (by simp [tickReset, ht]) (by simp [ht]) h)))
      · rename_i ht
        refine .inr (.inr (.inr (key s ?_ (by simp [ht]) h)))
        cases s
        simp_all [tickReset]

end Sys2Proof.Laws
end

