-- ==== Sys2Proof/Laws/Run.lean ====
section
/-! SUPPORT. Running the sequencer: one step of a busy engine, the thirteen positions of a transfer, and a
whole list of transfers. -/

namespace Sys2Proof.Laws

open Sys2Proof Sys2Proof.Machine

/-! ### Runs -/

theorem run_add {a b : Nat} {s s' : State} (h : run a s = .next s') : run (a + b) s = run b s' := by
  induction a generalizing s with
  | zero => cases h; simp
  | succ a ih =>
    rw [Nat.add_right_comm]
    simp only [run] at h ⊢
    split at h
    · exact ih h
    · cases h
    · cases h

@[simp] theorem run_zero (s : State) : run 0 s = .next s := rfl

theorem run_step {k : Nat} {s s' : State} (h : step s = .next s') : run (k + 1) s = run k s' := by
  simp [run, h]

/-! ### The observer's turn -/

theorem encode_of_decodeCommandByte {v : Byte} {i : Instr} (h : decodeCommandByte v = some i) :
    encode i = .bus (commandWord v) := by
  have key : ∀ v : Byte, (decodeCommandByte v).all
      (fun i => decide (encode i = .bus (commandWord v))) = true := by decide
  have := key v
  simpa [h] using this

theorem busWord_eq (w : BusWord) (h8 : w.getLsbD 8 = false) :
    w = if w.getLsbD 9 then dataWord (w.extractLsb' 0 8) else commandWord (w.extractLsb' 0 8) := by
  ext i hi
  have h8' : w[8] = false := h8
  split
  · rename_i h9
    have h9' : w[9] = true := h9
    interval_cases i <;> simp [dataWord, h8', h9']
  · rename_i h9
    have h9' : w[9] = false := by simpa using h9
    interval_cases i <;> simp [commandWord, h8', h9']

/-- A row of the bus table is the row of its own word (R82, R83). -/
theorem encode_of_decodeBus {w : BusWord} {i : Instr} (h : decodeBus w = .ok i) :
    encode i = .bus w := by
  unfold decodeBus at h
  split at h
  · cases h
  · rename_i h8
    have hw := busWord_eq w (by simpa using h8)
    split at h
    · rename_i h9
      cases h
      rw [if_pos h9] at hw
      rw [hw]
      simp [encode]
    · rename_i h9
      rw [if_neg h9] at hw
      split at h
      · rename_i j hj
        cases h
        rw [encode_of_decodeCommandByte hj, ← hw]
      · cases h

/-- The observer's turn is one step of the observer, and its word is taken (R202, R217). -/
theorem observerTurn_eq (w : BusWord) (s : State) :
    observerTurn w s =
      .next { s with strobe := none, observer := s.observer.step s.cfg.obs06Moves w } := by
  unfold observerTurn Observer.step
  cases hd : decodeBus w with
  | ok i =>
    simp only [exec_bus (encode_of_decodeBus hd)]
    rfl
  | error e => rfl

/-- While a pulse's word is to be taken, the step is the observer's (R202). -/
theorem step_strobe {s : State} {w : BusWord} (hc : s.cfg.wf = true) (hs : s.strobe = some w) :
    step s = .next { s with strobe := none, observer := s.observer.step s.cfg.obs06Moves w } := by
  unfold step
  rw [if_pos hc, hs]
  exact observerTurn_eq w s

/-! ### The sequencer's turn -/

/-- The engine can go on at position `n`, with `ms` the rest of its event list, and nothing stops it. -/
structure Ready (s : State) (n : Nat) (ms : List Micro) : Prop where
  config : s.cfg.wf = true
  strobe : s.strobe = none
  released : s.inReset = false
  noReset : s.resetIn = []
  seq : s.seq = .pos n
  rest : s.program.drop n = ms

theorem step_busy {s : State} {n : Nat} {ms : List Micro} (h : Ready s n ms) :
    step s = performAt s.program n { s with host := hostTick s.host } := by
  unfold step portTurn engineTurn sequencerTurn
  rw [if_pos h.config, h.strobe]
  simp only [h.noReset, h.released, h.seq]
  rfl

/-- One position performed: the step's answer (R23). -/
theorem step_ready {s s1 : State} {n : Nat} {m : Micro} {ms : List Micro} (h : Ready s n (m :: ms))
    (hp : perform m { s with host := hostTick s.host } = .next s1) :
    step s = .next (if ms = [] then { s1 with seq := .idle, responses := s1.responses ++ [codeOk] }
      else { s1 with seq := .pos (n + 1) }) := by
  rw [step_busy h]
  have hn : s.program[n]? = some m := by
    have := congrArg (·[0]?) h.rest
    simpa using this
  have hlen : n < s.program.length := (List.getElem?_eq_some_iff.1 hn).1
  have hd : (s.program.drop n).length = ms.length + 1 := by rw [h.rest]; rfl
  have hend : n + 1 = s.program.length ↔ ms = [] := by
    rw [List.length_drop] at hd
    rw [← List.length_eq_zero_iff]
    omega
  unfold performAt
  rw [hn]
  simp only [hp, advanceSeq, hend]

/-- `PINL` after the thirteen events of a transfer. -/
theorem latches_after (p : PinLatches) (t : Transfer) :
    (((((((((((p.set .rw .low).set .rs t.kind.rsLevel).set (.d 7) (dataLevel t.val 7)).set (.d 6)
      (dataLevel t.val 6)).set (.d 5) (dataLevel t.val 5)).set (.d 4) (dataLevel t.val 4)).set (.d 3)
      (dataLevel t.val 3)).set (.d 2) (dataLevel t.val 2)).set (.d 1) (dataLevel t.val 1)).set (.d 0)
      (dataLevel t.val 0)) : PinLatches) = { t.latches with en := p.en } := by
  simp only [PinLatches.set, Transfer.latches, PinLatches.mk.injEq, true_and]
  ext i hi
  interval_cases i <;> simp

/-- The bus word on the lines of a transfer, whatever EN is (R80, R117). -/
theorem busWord_latches (t : Transfer) (l : Latch) :
    ({ t.latches with en := l } : PinLatches).busWord? = some t.word := by
  obtain ⟨k, v⟩ := t
  have hb : ∀ b : Bool, (Latch.driven (levelOfBit b)).bit? = some b := by decide
  have hk : (Latch.driven k.rsLevel).bit? = some (k == .data) := by cases k <;> rfl
  simp only [PinLatches.busWord?, Transfer.latches, Vector.getElem_ofFn, dataLevel, hb, hk,
    Option.bind_eq_bind, Option.bind_some, Option.pure_def, Transfer.word]
  cases k <;> revert v <;> decide

/-- One position that is not the last, and the engine is ready for the next if no bus word waits. -/
theorem ready_next {s s1 : State} {n : Nat} {m : Micro} {ms : List Micro} (h : Ready s n (m :: ms))
    (hne : ms ≠ []) (hp : perform m { s with host := hostTick s.host } = .next s1) :
    step s = .next { s1 with seq := .pos (n + 1) } ∧
      (s1.strobe = none → Ready { s1 with seq := .pos (n + 1) } (n + 1) ms) := by
  obtain ⟨hc, _, hop, hr, _, _, _, _, hin, hre, _, _, _⟩ := perform_frame hp
  refine ⟨by rw [step_ready h hp, if_neg hne], fun hs => ?_⟩
  refine ⟨by rw [show _ = s.cfg from hc]; exact h.config, hs, hin.trans h.released,
    hre.trans h.noReset, rfl, ?_⟩
  have hprog : ({ s1 with seq := .pos (n + 1) } : State).program = s.program := by
    unfold State.program
    rw [show _ = s.opreg from hop, show _ = s.rLen from hr]
  rw [hprog, ← List.tail_drop, h.rest]
  rfl

/-- The state after a run of `Set` events. -/
def afterSets (es : List (Sig × Level)) (n : Nat) (s : State) : State :=
  { s with
    pins := es.foldl (fun p e => p.set e.1 e.2) s.pins
    trace := s.trace ++ es.map fun e => .set e.1 e.2
    seq := .pos (n + es.length)
    host := hostTick^[es.length] s.host }

/-- A run of positions that each set one pin. -/
theorem run_sets (f : Micro → Sig × Level) : ∀ (ms : List Micro) {s : State} {n k : Nat}
    {m : Micro} {rest : List Micro}, Ready s n (ms ++ m :: rest) →
    (∀ m' ∈ ms, ∀ s' : State, s'.tKind = s.tKind → s'.tVal = s.tVal →
      perform m' s' = .next (setPin (f m').1 (f m').2 s')) →
    run (k + ms.length) s = run k (afterSets (ms.map f) n s) ∧
      Ready (afterSets (ms.map f) n s) (n + ms.length) (m :: rest) := by
  intro ms
  induction ms with
  | nil =>
    intro s n k m rest h _
    have : afterSets ([].map f) n s = s := by
      simp [afterSets, ← h.seq]
    rw [this]
    exact ⟨rfl, h⟩
  | cons m' ms ih =>
    intro s n k m rest h hf
    have hp := hf m' List.mem_cons_self { s with host := hostTick s.host } rfl rfl
    obtain ⟨hs, hr⟩ := ready_next h (by simp) hp
    obtain ⟨h1, h2⟩ := ih (k := k) (hr h.strobe)
      (fun m'' hm s' a b => hf m'' (List.mem_cons_of_mem _ hm) s' a b)
    have he : afterSets (ms.map f) (n + 1) { setPin (f m').1 (f m').2 { s with host := hostTick s.host } with seq := .pos (n + 1) }
        = afterSets ((m' :: ms).map f) n s := by
      simp [afterSets, Nat.add_assoc, Nat.add_comm 1, setPin]
    rw [he] at h1 h2
    rw [List.length_cons, ← Nat.add_assoc, run_step hs, h1]
    exact ⟨rfl, by rw [Nat.add_right_comm] at h2; exact h2⟩

/-- The end of a list, or the next position. -/
def moveOn (rest : List Micro) (n : Nat) (s : State) : State :=
  if rest = [] then { s with seq := .idle, responses := s.responses ++ [codeOk] }
  else { s with seq := .pos n }

theorem applyLatchOps_seqIndep (ops : List LatchOp) (s : State) (q : Seq) :
    applyLatchOps ops { s with seq := q } = { applyLatchOps ops s with seq := q } := by
  induction ops generalizing s with
  | nil => rfl
  | cons op ops ih =>
    simp only [applyLatchOps_cons]
    rw [← ih (op.apply s)]
    cases op <;> rfl

theorem moveOn_seq (rest : List Micro) (n : Nat) (s : State) (q : Seq) :
    moveOn rest n { s with seq := q } = moveOn rest n s := by
  unfold moveOn; split <;> rfl

/-- The enable pulse of a transfer, with the observer's step in it (R113, R202). -/
theorem run_pulse {s : State} {n : Nat} {x : Xfer} {t : Transfer} {l : Latch} {rest : List Micro}
    (k : Nat) (h : Ready s n (.phase .enh x :: .phase .dwell x :: .phase .enl x :: rest))
    (hp : s.pins = { t.latches with en := l }) :
    run (k + 4) s = run k (moveOn rest (n + 3) (applyLatchOps x.after { s with
      pins := t.latches
      trace := s.trace ++ [.set .en .high, .dwell s.cfg.dwellMs, .set .en .low]
      observer := t.observed s.cfg.obs06Moves l s.observer
      host := hostTick^[3] s.host })) := by
  -- the three states inside the pulse
  let o := if l = .driven .low then s.observer else Observer.blinded
  let s1 : State := { s with
    pins := { t.latches with en := .driven .high }, trace := s.trace ++ [.set .en .high]
    observer := o, host := hostTick s.host, seq := .pos (n + 1) }
  let s2 : State := { s1 with
    trace := s.trace ++ [.set .en .high, .dwell s.cfg.dwellMs], strobe := some t.word
    host := hostTick^[2] s.host, seq := .pos (n + 2) }
  let s3 : State := { s2 with strobe := none, observer := t.observed s.cfg.obs06Moves l s.observer }
  have hrest : ∀ j, s.program.drop (n + j) =
      (Micro.phase .enh x :: .phase .dwell x :: .phase .enl x :: rest).drop j := by
    intro j
    rw [← List.drop_drop, h.rest]
  have e1 : step s = .next s1 := by
    rw [step_ready h (s1 := { s1 with seq := s.seq }) ?_, if_neg (by simp)]
    simp [perform, raiseEnable, setPin, hp, PinLatches.set, s1, o]
  have h1 : Ready s1 (n + 1) (.phase .dwell x :: .phase .enl x :: rest) :=
    ⟨h.config, h.strobe, h.released, h.noReset, rfl, hrest 1⟩
  have e2 : step s1 = .next s2 := by
    rw [step_ready h1 (s1 := { s2 with seq := s1.seq }) ?_, if_neg (by simp)]
    simp [perform, dwell, busWord_latches, s2, s1]
  have e3 : step s2 = .next s3 := step_strobe h.config rfl
  have h3 : Ready s3 (n + 2) (.phase .enl x :: rest) :=
    ⟨h.config, rfl, h.released, h.noReset, rfl, hrest 2⟩
  rw [run_step (k := k + 3) e1, run_step (k := k + 2) e2, run_step (k := k + 1) e3,
    run_step (k := k) (step_ready h3 rfl)]
  congr 1
  let b : State := { s with
    pins := t.latches
    trace := s.trace ++ [.set .en .high, .dwell s.cfg.dwellMs, .set .en .low]
    observer := t.observed s.cfg.obs06Moves l s.observer
    host := hostTick^[3] s.host }
  have hl : lowerEnable { s3 with host := hostTick s3.host } = { b with seq := .pos (n + 2) } := by
    simp [lowerEnable, setPin, PinLatches.set, s3, s2, s1, b, h.strobe, Transfer.latches]
  rw [hl, applyLatchOps_seqIndep]
  exact moveOn_seq rest (n + 3) (applyLatchOps x.after b) (.pos (n + 2))

/-- What a transfer leaves: the latches of the bus word with EN low, its thirteen events, the observer one step
on, and the latch updates that follow it (R112, R171, R202). -/
def afterTransfer (x : Xfer) (t : Transfer) (s : State) : State :=
  applyLatchOps x.after { s with
    tKind := t.kind, tVal := t.val, pins := t.latches
    trace := s.trace ++ t.events s.cfg.dwellMs
    observer := t.observed s.cfg.obs06Moves s.pins.en s.observer
    host := hostTick^[13] s.host }

/-- What the nine setup positions after the first set. -/
def setupSet (t : Transfer) : Micro → Sig × Level
  | .phase .rs _ => (.rs, t.kind.rsLevel)
  | .phase (.d b) _ => (.d b, dataLevel t.val b)
  | _ => (.rw, .low)

/-- The nine setup positions after the first. -/
def setupPhases : List TPhase := [.rs, .d 7, .d 6, .d 5, .d 4, .d 3, .d 2, .d 1, .d 0]

/-- The thirteen positions of a transfer: fourteen steps, the observer's among them (R112, R202). -/
theorem run_transfer {s : State} {n : Nat} {x : Xfer} {v : Byte} {rest : List Micro} (k : Nat)
    (h : Ready s n (transferMicros x ++ rest)) (hv : x.src.value? s = some v) :
    run (k + 14) s = run k (moveOn rest (n + 13) (afterTransfer x { kind := x.kind, val := v } s)) := by
  let t : Transfer := { kind := x.kind, val := v }
  have hp : perform (.phase .rw x) { s with host := hostTick s.host } =
      .next (setPin .rw .low { s with host := hostTick s.host, tKind := x.kind, tVal := v }) := by
    have : x.src.value? { s with host := hostTick s.host } = some v := by
      rw [← hv]; cases x.src <;> rfl
    simp only [perform, beginTransfer, this]
  have h' : Ready s n (.phase .rw x :: (setupPhases.map (Micro.phase · x) ++
      .phase .enh x :: .phase .dwell x :: .phase .enl x :: rest)) := h
  obtain ⟨e1, r1⟩ := ready_next h' (by simp [setupPhases]) hp
  obtain ⟨e2, r2⟩ := run_sets (setupSet t) _ (k := k + 4) (r1 h.strobe) (by
    intro m hm s' hk hv'
    obtain ⟨ph, hph, rfl⟩ := List.mem_map.1 hm
    simp only [setupPhases, List.mem_cons, List.not_mem_nil, or_false] at hph
    rcases hph with rfl | rfl | rfl | rfl | rfl | rfl | rfl | rfl | rfl <;>
      simp [perform, setupSet, hk, hv', t])
  have e3 := run_pulse (t := t) (l := s.pins.en) k r2 (latches_after s.pins t)
  refine (run_step (k := k + 13) e1).trans (e2.trans (e3.trans (congrArg (run k) ?_)))
  let b : State := { s with
    tKind := t.kind, tVal := t.val, pins := t.latches
    trace := s.trace ++ t.events s.cfg.dwellMs
    observer := t.observed s.cfg.obs06Moves s.pins.en s.observer
    host := hostTick^[13] s.host }
  refine Eq.trans ?_ (moveOn_seq rest (n + 13) (applyLatchOps x.after b) (.pos (n + 10)))
  rw [← applyLatchOps_seqIndep]
  refine congrArg (fun c => moveOn rest (n + 13) (applyLatchOps x.after c)) ?_
  simp [afterSets, setupPhases, setupSet, setPin, Transfer.events, t, b]

/-! ### A list of transfers -/

/-- The transfers `xs`, begun in `s`, send `ts` on the bus and leave `s'`. -/
inductive Sends : List Xfer → List Transfer → State → State → Prop
  | nil (s : State) : Sends [] [] s s
  | cons {x : Xfer} {v : Byte} {xs : List Xfer} {ts : List Transfer} {s s' : State}
      (value : x.src.value? s = some v)
      (tail : Sends xs ts (afterTransfer x { kind := x.kind, val := v } s) s') :
      Sends (x :: xs) ({ kind := x.kind, val := v } :: ts) s s'

theorem Sends.append {xs ys : List Xfer} {ts us : List Transfer} {s s1 s' : State}
    (h : Sends xs ts s s1) (h' : Sends ys us s1 s') : Sends (xs ++ ys) (ts ++ us) s s' := by
  induction h with
  | nil => exact h'
  | cons hv _ ih => exact .cons hv (ih h')

/-- What a list of transfers leaves unchanged, and what it adds to the trace (R20, R110). -/
theorem Sends.frame {xs : List Xfer} {ts : List Transfer} {s s' : State} (h : Sends xs ts s s') :
    s'.cfg = s.cfg ∧ s'.opreg = s.opreg ∧ s'.rLen = s.rLen ∧ s'.fault = s.fault ∧ s'.msg = s.msg ∧
    s'.msgLen = s.msgLen ∧ s'.responses = s.responses ∧ s'.inReset = s.inReset ∧
    s'.resetIn = s.resetIn ∧ s'.strobe = s.strobe ∧ s'.drawEpoch = s.drawEpoch ∧
    s'.host = hostTick^[13 * xs.length] s.host ∧
    s'.trace = s.trace ++ transferEvents s.cfg.dwellMs ts := by
  induction h with
  | nil => simp [transferEvents]
  | @cons x v xs ts s s' hv _ ih =>
    obtain ⟨h1, h2, h3, h4, h5, h6, h7, h8, h9, h10, h11, h12, h13⟩ := ih
    refine ⟨h1.trans ?_, h2.trans ?_, h3.trans ?_, h4.trans ?_, h5.trans ?_, h6.trans ?_,
      h7.trans ?_, h8.trans ?_, h9.trans ?_, h10.trans ?_, h11.trans ?_, h12.trans ?_, h13.trans ?_⟩ <;>
      simp only [afterTransfer, applyLatchOps_cfg, applyLatchOps_opreg, applyLatchOps_rLen,
        applyLatchOps_fault, applyLatchOps_msg, applyLatchOps_msgLen, applyLatchOps_responses,
        applyLatchOps_inReset, applyLatchOps_resetIn, applyLatchOps_strobe, applyLatchOps_drawEpoch,
        applyLatchOps_host, applyLatchOps_trace]
    · rw [← Function.iterate_add_apply, List.length_cons, Nat.mul_succ]
    · simp [transferEvents]

/-- What the lines and the observer are left with, once EN was low before the first transfer (R118, R203). -/
theorem Sends.lines {xs : List Xfer} {ts : List Transfer} {s s' : State} (h : Sends xs ts s s')
    (he : s.pins.en = .driven .low) :
    s'.pins.en = .driven .low ∧ s'.pins = (ts.getLast?.map Transfer.latches).getD s.pins ∧
    s'.observer = s.observer.steps s.cfg.obs06Moves (ts.map Transfer.word) := by
  induction h with
  | nil => simp [he, Observer.steps]
  | @cons x v xs ts s s' hv _ ih =>
    have he' : (afterTransfer x { kind := x.kind, val := v } s).pins.en = .driven .low := by
      simp [afterTransfer, Transfer.latches]
    obtain ⟨h1, h2, h3⟩ := ih he'
    refine ⟨h1, h2.trans ?_, h3.trans ?_⟩
    · cases ts with
      | nil => simp [afterTransfer]
      | cons t ts =>
        obtain ⟨u, hu⟩ : ∃ u, (t :: ts).getLast? = some u := ⟨_, List.getLast?_eq_some_getLast (by simp)⟩
        simp [hu]
    · simp [afterTransfer, Transfer.observed, he, Observer.steps]

/-- Transfers with no latch updates leave `CNT`, `IDX` and `DROPPED` (R130). -/
theorem Sends.counters {xs : List Xfer} {ts : List Transfer} {s s' : State} (h : Sends xs ts s s')
    (hx : ∀ x ∈ xs, x.after = []) : s'.cnt = s.cnt ∧ s'.idx = s.idx ∧ s'.dropped = s.dropped := by
  induction h with
  | nil => simp
  | @cons x v xs ts s s' hv _ ih =>
    obtain ⟨h1, h2, h3⟩ := ih fun y hy => hx y (List.mem_cons_of_mem _ hy)
    have := hx x List.mem_cons_self
    simp [h1, h2, h3, afterTransfer, this]

/-- Command bytes are sent as they are, from any state (R130). -/
theorem sends_cmds : ∀ (vs : List Byte) (s : State), ∃ s', Sends (vs.map (cmd ·)) (vs.map .c) s s'
  | [], s => ⟨s, .nil s⟩
  | v :: vs, s =>
    have ⟨s', h⟩ := sends_cmds vs (afterTransfer (cmd v) (.c v) s)
    ⟨s', .cons rfl h⟩

theorem afterTransfer_seqIndep (x : Xfer) (t : Transfer) (s : State) (q : Seq) :
    afterTransfer x t { s with seq := q } = { afterTransfer x t s with seq := q } := by
  unfold afterTransfer
  rw [← applyLatchOps_seqIndep]

/-- Transfers under way: fourteen steps for each of the list, and the engine comes to the end of its event
list and is idle, with response `OK` (R23, R89). -/
theorem run_transfers {xs : List Xfer} {ts : List Transfer} {s s' : State} (h : Sends xs ts s s')
    (k : Nat) : ∀ n, xs ≠ [] → Ready { s with seq := .pos n } n (transfersMicros xs) →
    run (k + 14 * xs.length) { s with seq := .pos n } =
      run k { s' with seq := .idle, responses := s'.responses ++ [codeOk] } := by
  induction h with
  | nil => intro n hx; exact absurd rfl hx
  | @cons x v xs ts s s' hv hs ih =>
    intro n _ hr
    have hr' : Ready { s with seq := .pos n } n (transferMicros x ++ transfersMicros xs) := hr
    have hv' : x.src.value? { s with seq := .pos n } = some v := by
      rw [← hv]; cases x.src <;> rfl
    rw [List.length_cons, Nat.mul_succ, ← Nat.add_assoc, run_transfer _ hr' hv',
      afterTransfer_seqIndep, moveOn_seq]
    cases xs with
    | nil =>
      cases hs
      rfl
    | cons y ys =>
      have hne : transfersMicros (y :: ys) ≠ [] := by
        simp [transfersMicros, transferMicros, transportPhases]
      rw [show moveOn (transfersMicros (y :: ys)) (n + 13) (afterTransfer x { kind := x.kind, val := v } s)
          = { afterTransfer x { kind := x.kind, val := v } s with seq := .pos (n + 13) } from if_neg hne]
      refine ih (n + 13) (by simp) ⟨?_, ?_, ?_, ?_, rfl, ?_⟩
      · simpa [afterTransfer] using hr.config
      · simpa [afterTransfer] using hr.strobe
      · simpa [afterTransfer] using hr.released
      · simpa [afterTransfer] using hr.noReset
      · have hp : ({ afterTransfer x { kind := x.kind, val := v } s with seq := .pos (n + 13) } : State).program
            = ({ s with seq := .pos n } : State).program := by
          unfold State.program
          simp [afterTransfer]
        rw [hp, ← List.drop_drop, hr'.rest]
        exact (List.drop_left : (transferMicros x ++ _).drop (transferMicros x).length = _)

/-- A request of transfers alone, from its acceptance to the idle engine (R88, R89). -/
theorem run_request {s s' : State} {w : ReqWord} {xs : List Xfer} {ts : List Transfer} (h : AtPort s)
    (hp : ({ s with opreg := w, seq := .pos 0 } : State).program = transfersMicros xs) (hx : xs ≠ [])
    (hs : Sends xs ts { s with opreg := w } s') :
    run (14 * xs.length) { s with opreg := w, seq := .pos 0 } =
      .next { s' with seq := .idle, responses := s'.responses ++ [codeOk] } := by
  have := run_transfers hs 0 0 hx ⟨h.config, h.noPulse, h.released, h.noReset, rfl, by simpa using hp⟩
  rwa [Nat.zero_add, run_zero] at this

end Sys2Proof.Laws
end

