-- ==== Sys2Proof/Laws/Inv.lean ====
section
/-! SUPPORT. What the invariant rests on: the event lists of all requests are whole and in range, and one position
keeps the pulse and the counters. -/

namespace Sys2Proof.Laws

open Sys2Proof Sys2Proof.Machine

/-! ### The event lists -/

/-- The latch updates do what `latchesInRange` says of `CNT` and `IDX`. -/
theorem latchesInRange_apply {rLen : Nat} {ops : List LatchOp} : ∀ {s : State} {g : Nat × Nat},
    latchesInRange rLen ops (s.cnt.toNat, s.idx) = some g →
    ((applyLatchOps ops s).cnt.toNat, (applyLatchOps ops s).idx) = g := by
  induction ops with
  | nil => intro s g h; simpa [latchesInRange, applyLatchOps] using h
  | cons op ops ih =>
    intro s g h
    rw [applyLatchOps_cons]
    apply ih
    cases op with
    | clearCnt | clearIdx | drop => simpa [latchesInRange, LatchOp.apply] using h
    | countUp =>
      simp only [latchesInRange] at h
      split at h
      · rename_i hlt
        have : (s.cnt + 1).toNat = s.cnt.toNat + 1 := by
          rw [BitVec.toNat_add]
          simp
          omega
        simp only [LatchOp.apply, this]
        exact h
      · cases h
    | indexUp =>
      simp only [latchesInRange] at h
      split at h
      · simpa [LatchOp.apply] using h
      · cases h

/-- A transfer begun with EN low leaves it low, one whole pulse (R118). -/
theorem pulsesWhole_transfer {x : Xfer} {rest : List Micro} {p : Pulse} (h : pulsesWhole .down rest) :
    pulsesWhole p (transferMicros x ++ rest) := by
  cases p <;> simpa [transferMicros, transportPhases, pulsesWhole, Pulse.after] using h

theorem pulsesWhole_transfers : ∀ xs : List Xfer, pulsesWhole .down (transfersMicros xs)
  | [] => rfl
  | _ :: xs => pulsesWhole_transfer (pulsesWhole_transfers xs)

theorem pulsesWhole_program (n : Nat) (i : Instr) : pulsesWhole .down (programOf n i) := by
  cases i
  case init =>
    simp only [programOf, initProgram, initStep1, List.cons_append, List.nil_append, pulsesWhole, Pulse.after]
    simpa using pulsesWhole_transfers (initBytes.map (cmd ·))
  all_goals first | exact pulsesWhole_transfers _ | rfl

theorem staysInRange_transfer {rLen : Nat} {x : Xfer} {rest : List Micro} {g g' : Nat × Nat}
    (hm : x.src = .msg → g.2 < rLen) (hl : latchesInRange rLen x.after g = some g')
    (h : staysInRange rLen g' rest) : staysInRange rLen g (transferMicros x ++ rest) :=
  ⟨hm, g', hl, h⟩

theorem staysInRange_cmds {rLen : Nat} {g : Nat × Nat} : ∀ xs : List Xfer,
    (∀ x ∈ xs, x.src ≠ .msg ∧ x.after = []) → staysInRange rLen g (transfersMicros xs)
  | [], _ => trivial
  | x :: xs, h => staysInRange_transfer (fun hx => absurd hx (h x List.mem_cons_self).1)
      (by rw [(h x List.mem_cons_self).2]; rfl)
      (staysInRange_cmds xs fun y hy => h y (List.mem_cons_of_mem _ hy))

theorem staysInRange_message {rLen c : Nat} : ∀ (left idx : Nat) (d : Bool), idx + left = rLen →
    staysInRange rLen (c, idx) (transfersMicros (messagePhase left idx d))
  | 0, _, _, _ => trivial
  | left + 1, idx, d, h => by
    have hc : ∀ d, staysInRange rLen (c, idx) (transfersMicros (character :: messagePhase left (idx + 1) d)) :=
      fun d => staysInRange_transfer (g' := (c, idx + 1)) (fun _ => by simp; omega)
        (by simp [character, latchesInRange]; omega) (staysInRange_message left (idx + 1) d (by omega))
    unfold messagePhase
    split
    · exact staysInRange_transfer (g' := (c, idx)) (fun hx => by cases hx) rfl (hc true)
    · exact hc d

theorem staysInRange_advance {rLen : Nat} {rest : List Xfer}
    (h : ∀ c, staysInRange rLen (c, 0) (transfersMicros rest)) : ∀ (left c i : Nat), 0 < left → c + left ≤ 255 →
    staysInRange rLen (c, i) (transfersMicros (advancePhase left ++ rest))
  | left + 1, c, i, _, hc => by
    refine staysInRange_transfer (g' := (c + 1, if left = 0 then 0 else i)) (fun hx => by cases hx) ?_ ?_
    · simp [cmd, startMessage, latchesInRange, show c < 255 by omega]
      split <;> simp [latchesInRange]
    · by_cases hl : left = 0
      · subst hl
        exact h (c + 1)
      · rw [if_neg hl]
        exact staysInRange_advance h left (c + 1) i (by omega) (by omega)

theorem staysInRange_blanks {rLen : Nat} {rest : List Xfer} {i : Nat}
    (h : ∀ c, staysInRange rLen (c, i) (transfersMicros rest)) : ∀ (left c : Nat), c + left ≤ 255 →
    staysInRange rLen (c, i)
      (transfersMicros ((List.replicate left [dat SPACE, cmd ADVANCE_OP [.countUp]]).flatten ++ rest))
  | 0, c, _ => h c
  | left + 1, c, hc => by
    refine staysInRange_transfer (x := dat SPACE) (g' := (c, i)) (fun hx => by cases hx) rfl ?_
    refine staysInRange_transfer (x := cmd ADVANCE_OP [.countUp]) (g' := (c + 1, i)) (fun hx => by cases hx) ?_
      (staysInRange_blanks h left (c + 1) (by omega))
    simp [cmd, latchesInRange, show c < 255 by omega]

theorem staysInRange_render (c : Bool) (r : Row) (col : StartCol) (len : Nat) (g : Nat × Nat) :
    staysInRange len g (renderProgram c r col len) := by
  have hmsg : ∀ c', staysInRange len (c', 0) (transfersMicros (messagePhase len 0 false)) :=
    fun c' => staysInRange_message len 0 false (by omega)
  have hadv : ∀ i, 0 < advanceCount col → staysInRange len (0, i)
      (transfersMicros (advancePhase (advanceCount col) ++ messagePhase len 0 false)) :=
    fun i h => staysInRange_advance hmsg _ 0 i h (by have := advanceCount_lt col; omega)
  have hsel : ∀ g, staysInRange len g (transfersMicros (reselectPhase (rowOrigin r) (advanceCount col) ++
      (advancePhase (advanceCount col) ++ messagePhase len 0 false))) := by
    intro g
    by_cases h : advanceCount col = 0
    · rw [h]
      exact staysInRange_transfer (g' := (0, 0)) (fun hx => by cases hx) rfl (hmsg 0)
    · refine staysInRange_transfer (g' := (0, g.2)) (fun hx => by cases hx) ?_ (hadv g.2 (by omega))
      simp [cmd, startMessage, h, latchesInRange]
  unfold renderProgram renderXfers
  rw [List.append_assoc, List.append_assoc]
  cases c with
  | false => exact hsel g
  | true =>
    refine staysInRange_transfer (x := cmd (rowOrigin r)) (g' := g) (fun hx => by cases hx) rfl ?_
    refine staysInRange_transfer (x := cmd ROW0_ORIGIN [.clearCnt]) (g' := (0, g.2)) (fun hx => by cases hx) rfl ?_
    exact staysInRange_blanks (fun c => hsel (c, g.2)) CLEAR_COUNT 0 (by decide)

theorem staysInRange_program (n : Nat) (i : Instr) (g : Nat × Nat) : staysInRange n g (programOf n i) := by
  cases i
  case render c r col => exact staysInRange_render c r col n g
  case init =>
    simp only [programOf, initProgram, initStep1, List.cons_append, List.nil_append, staysInRange]
    exact staysInRange_cmds _ (by simp [cmd])
  all_goals first | exact staysInRange_cmds _ (by simp [cmd, dat]) | trivial

/-! ### One position -/

/-- The lines, the pulse in progress and the observer agree with where in a pulse the sequencer is. -/
structure PulseOk (s : State) (p : Pulse) : Prop where
  enable : s.pins.en = .driven .high ↔ p ≠ .down
  strobe : s.strobe.isSome = true → p = .sampled
  blind : s.observer.phase = .blind → p = .up ∨ s.strobe.isSome = true

/-- One position of a list with whole pulses keeps the agreement (R118). -/
theorem perform_pulse {m : Micro} {ms : List Micro} {s s' : State} {p : Pulse} (h : perform m s = .next s')
    (ok : PulseOk s p) (hs : s.strobe = none) (hw : pulsesWhole p (m :: ms)) : PulseOk s' (p.after m) := by
  obtain ⟨he, _, hb⟩ := ok
  obtain ⟨hd, hl, _⟩ := hw
  have hup : s.observer.phase = .blind → p = .up := fun hx => by simpa [hs] using hb hx
  cases m with
  | forceLow sig =>
    cases sig with
    | en =>
      cases h
      refine ⟨by simp [setIdleEnable, Pulse.after], by simp [setIdleEnable, hs], ?_⟩
      intro hx
      simp only [setIdleEnable, setPin_observer] at hx
      split at hx
      · rename_i hlow
        have := he.2 (by rw [hup hx]; decide)
        rw [hlow] at this
        cases this
      · cases hx
    | rs | rw | d b =>
      cases h
      exact ⟨by simpa [Pulse.after] using he, by simp [hs], by simpa [hs, Pulse.after] using hup⟩
  | phase ph x =>
    cases ph with
    | rw =>
      simp only [perform, beginTransfer] at h
      split at h
      · cases h
        exact ⟨by simpa [Pulse.after] using he, by simp [hs], by simpa [hs, Pulse.after] using hup⟩
      · cases h
    | rs | d b =>
      cases h
      exact ⟨by simpa [Pulse.after] using he, by simp [hs], by simpa [hs, Pulse.after] using hup⟩
    | enh =>
      cases h
      exact ⟨by simp [raiseEnable, Pulse.after], by simp [raiseEnable, hs], by simp [Pulse.after]⟩
    | dwell =>
      have hp := hd ⟨x, rfl⟩
      subst hp
      simp only [perform, Host.Outcome.next.injEq] at h
      subst h
      unfold dwell
      split
      · exact ⟨by simpa [Pulse.after] using he, by simp [Pulse.after], by simp⟩
      · exact ⟨by simpa [Pulse.after] using he, by simp [hs], by simp [Observer.lost]⟩
    | enl =>
      have hp := hl ⟨x, rfl⟩
      subst hp
      cases h
      refine ⟨by simp [lowerEnable, Pulse.after], by simp [lowerEnable, hs], ?_⟩
      intro hx
      simp only [applyLatchOps_observer, lowerEnable, setPin_observer] at hx
      exact absurd (hup hx) (by decide)

/-- One position keeps the rest of the list in range (R34, R52). -/
theorem perform_range {m : Micro} {ms : List Micro} {s s' : State} {rLen : Nat} (h : perform m s = .next s')
    (hr : staysInRange rLen (s.cnt.toNat, s.idx) (m :: ms)) :
    staysInRange rLen (s'.cnt.toNat, s'.idx) ms := by
  cases m with
  | forceLow sig => cases sig <;> (cases h; simpa [staysInRange] using hr)
  | phase ph x =>
    cases ph with
    | rw =>
      simp only [perform, beginTransfer] at h
      split at h
      · cases h
        exact hr.2
      · cases h
    | rs | d b | enh =>
      cases h
      simpa [staysInRange, raiseEnable] using hr
    | dwell =>
      simp only [perform, Host.Outcome.next.injEq] at h
      subst h
      simpa [staysInRange] using hr
    | enl =>
      cases h
      obtain ⟨g', hg, hs⟩ := hr
      rw [latchesInRange_apply (s := lowerEnable s) (g := g') (by simpa [lowerEnable] using hg)]
      exact hs

end Sys2Proof.Laws
end

