-- ==== Sys2Proof/Laws/PerInstr.lean ====
section
/-! SUPPORT. One law for every instruction: its encoded word has the width, the fixed bits and no others of
its row of spec/opcode_table.json. -/

namespace Sys2Proof.Laws

open Sys2Proof

namespace TableRow

/-- A row's width, mask and match. -/
structure Bits where
  width : Nat
  mask : Nat
  fixed : Nat
  deriving DecidableEq, Repr

/-- The rows of spec/opcode_table.json. -/
def bits : Instr → Bits
  | .init => { width := 16, mask := 0xFFFF, fixed := 0x0800 }
  | .render _ _ _ => { width := 16, mask := 0xF900, fixed := 0x1000 }
  | .wcmd _ => { width := 16, mask := 0xFF00, fixed := 0x1800 }
  | .wdata _ => { width := 16, mask := 0xFF00, fixed := 0x2000 }
  | .clr => { width := 16, mask := 0xFFFF, fixed := 0x8000 }
  | .home => { width := 16, mask := 0xFFFF, fixed := 0x8800 }
  | .cshl => { width := 16, mask := 0xFFFF, fixed := 0x9000 }
  | .cshr => { width := 16, mask := 0xFFFF, fixed := 0x9800 }
  | .dshl => { width := 16, mask := 0xFFFF, fixed := 0xA000 }
  | .dshr => { width := 16, mask := 0xFFFF, fixed := 0xA800 }
  | .doff => { width := 16, mask := 0xFFFF, fixed := 0xB000 }
  | .doffc => { width := 16, mask := 0xFFFF, fixed := 0xB800 }
  | .don => { width := 16, mask := 0xFFFF, fixed := 0xC000 }
  | .donb => { width := 16, mask := 0xFFFF, fixed := 0xC800 }
  | .mcl => { width := 16, mask := 0xFFFF, fixed := 0xD000 }
  | .mcr => { width := 16, mask := 0xFFFF, fixed := 0xD800 }
  | .sdl => { width := 16, mask := 0xFFFF, fixed := 0xE000 }
  | .sdr => { width := 16, mask := 0xFFFF, fixed := 0xE800 }
  | .row0 => { width := 16, mask := 0xFFFF, fixed := 0xF000 }
  | .row1 => { width := 16, mask := 0xFFFF, fixed := 0xF800 }
  | .c01 => { width := 10, mask := 0x3FF, fixed := 0x001 }
  | .c02 => { width := 10, mask := 0x3FF, fixed := 0x002 }
  | .c04 => { width := 10, mask := 0x3FF, fixed := 0x004 }
  | .c05 => { width := 10, mask := 0x3FF, fixed := 0x005 }
  | .c06 => { width := 10, mask := 0x3FF, fixed := 0x006 }
  | .c07 => { width := 10, mask := 0x3FF, fixed := 0x007 }
  | .c08 => { width := 10, mask := 0x3FF, fixed := 0x008 }
  | .c0a => { width := 10, mask := 0x3FF, fixed := 0x00A }
  | .c0c => { width := 10, mask := 0x3FF, fixed := 0x00C }
  | .c0e => { width := 10, mask := 0x3FF, fixed := 0x00E }
  | .c0f => { width := 10, mask := 0x3FF, fixed := 0x00F }
  | .c10 => { width := 10, mask := 0x3FF, fixed := 0x010 }
  | .c14 => { width := 10, mask := 0x3FF, fixed := 0x014 }
  | .c18 => { width := 10, mask := 0x3FF, fixed := 0x018 }
  | .c1c => { width := 10, mask := 0x3FF, fixed := 0x01C }
  | .c30 => { width := 10, mask := 0x3FF, fixed := 0x030 }
  | .c38 => { width := 10, mask := 0x3FF, fixed := 0x038 }
  | .c80 => { width := 10, mask := 0x3FF, fixed := 0x080 }
  | .cc0 => { width := 10, mask := 0x3FF, fixed := 0x0C0 }
  | .data _ => { width := 10, mask := 0x300, fixed := 0x200 }

/-- The encoded word has the row's width, and its fixed bits are the row's. -/
def Statement (i : Instr) : Prop :=
  match encode i with
  | .request w => (bits i).width = 16 ∧ w &&& BitVec.ofNat 16 (bits i).mask = BitVec.ofNat 16 (bits i).fixed
  | .bus b => (bits i).width = 10 ∧ b &&& BitVec.ofNat 10 (bits i).mask = BitVec.ofNat 10 (bits i).fixed

theorem init : Statement .init := ⟨rfl, rfl⟩
theorem render (clearRow : Bool) (row : Row) (startColumn : StartCol) : Statement (.render clearRow row startColumn) := by
  refine ⟨rfl, ?_⟩
  ext i hi
  cases clearRow <;> cases row <;> interval_cases i <;> simp [wordR, bits, Row.bit]
theorem wcmd (val : Byte) : Statement (.wcmd val) := by
  refine ⟨rfl, ?_⟩
  ext i hi
  interval_cases i <;> simp [wordW, bits]
theorem wdata (val : Byte) : Statement (.wdata val) := by
  refine ⟨rfl, ?_⟩
  ext i hi
  interval_cases i <;> simp [wordW, bits]
theorem clr : Statement .clr := ⟨rfl, rfl⟩
theorem home : Statement .home := ⟨rfl, rfl⟩
theorem cshl : Statement .cshl := ⟨rfl, rfl⟩
theorem cshr : Statement .cshr := ⟨rfl, rfl⟩
theorem dshl : Statement .dshl := ⟨rfl, rfl⟩
theorem dshr : Statement .dshr := ⟨rfl, rfl⟩
theorem doff : Statement .doff := ⟨rfl, rfl⟩
theorem doffc : Statement .doffc := ⟨rfl, rfl⟩
theorem don : Statement .don := ⟨rfl, rfl⟩
theorem donb : Statement .donb := ⟨rfl, rfl⟩
theorem mcl : Statement .mcl := ⟨rfl, rfl⟩
theorem mcr : Statement .mcr := ⟨rfl, rfl⟩
theorem sdl : Statement .sdl := ⟨rfl, rfl⟩
theorem sdr : Statement .sdr := ⟨rfl, rfl⟩
theorem row0 : Statement .row0 := ⟨rfl, rfl⟩
theorem row1 : Statement .row1 := ⟨rfl, rfl⟩
theorem c01 : Statement .c01 := ⟨rfl, rfl⟩
theorem c02 : Statement .c02 := ⟨rfl, rfl⟩
theorem c04 : Statement .c04 := ⟨rfl, rfl⟩
theorem c05 : Statement .c05 := ⟨rfl, rfl⟩
theorem c06 : Statement .c06 := ⟨rfl, rfl⟩
theorem c07 : Statement .c07 := ⟨rfl, rfl⟩
theorem c08 : Statement .c08 := ⟨rfl, rfl⟩
theorem c0a : Statement .c0a := ⟨rfl, rfl⟩
theorem c0c : Statement .c0c := ⟨rfl, rfl⟩
theorem c0e : Statement .c0e := ⟨rfl, rfl⟩
theorem c0f : Statement .c0f := ⟨rfl, rfl⟩
theorem c10 : Statement .c10 := ⟨rfl, rfl⟩
theorem c14 : Statement .c14 := ⟨rfl, rfl⟩
theorem c18 : Statement .c18 := ⟨rfl, rfl⟩
theorem c1c : Statement .c1c := ⟨rfl, rfl⟩
theorem c30 : Statement .c30 := ⟨rfl, rfl⟩
theorem c38 : Statement .c38 := ⟨rfl, rfl⟩
theorem c80 : Statement .c80 := ⟨rfl, rfl⟩
theorem cc0 : Statement .cc0 := ⟨rfl, rfl⟩
theorem data (v : Byte) : Statement (.data v) := by
  refine ⟨rfl, ?_⟩
  ext i hi
  interval_cases i <;> simp [dataWord, bits]

end TableRow

end Sys2Proof.Laws
end

