-- ==== Sys2Proof/Tests/Slice0.lean ====
section
/-! SUPPORT. The model's own tests: words written out from spec/opcode_table.json and the vectors of
95_test_vectors.md, one step each; ill-formed terms the checks refuse; and for every statement with
hypotheses a witness that meets them. -/

namespace Sys2Proof.Tests

open Sys2Proof Sys2Proof.Machine

/-! ### Decoding: every row, its word written out from the table's encoding -/

/-- spec/opcode_table.json, request rows, first half. -/
theorem test_decode_requests_low :
    ([(0b0000100000000000, .init),
      (0b0001011011111111, .render true .bottom 255),
      (0b0001100010100101, .wcmd 0xA5),
      (0b0010000001000001, .wdata 0x41),
      (0b1000000000000000, .clr),
      (0b1000100000000000, .home),
      (0b1001000000000000, .cshl),
      (0b1001100000000000, .cshr),
      (0b1010000000000000, .dshl),
      (0b1010100000000000, .dshr)] : List (ReqWord × Instr)).all
      (fun p => decodeRequest p.1 = .ok p.2) := by decide

/-- spec/opcode_table.json, request rows, second half. -/
theorem test_decode_requests_high :
    ([(0b1011000000000000, .doff),
      (0b1011100000000000, .doffc),
      (0b1100000000000000, .don),
      (0b1100100000000000, .donb),
      (0b1101000000000000, .mcl),
      (0b1101100000000000, .mcr),
      (0b1110000000000000, .sdl),
      (0b1110100000000000, .sdr),
      (0b1111000000000000, .row0),
      (0b1111100000000000, .row1)] : List (ReqWord × Instr)).all
      (fun p => decodeRequest p.1 = .ok p.2) := by decide

/-- spec/opcode_table.json, bus rows, first half. -/
theorem test_decode_bus_low :
    ([(0b0000000001, .c01),
      (0b0000000010, .c02),
      (0b0000000100, .c04),
      (0b0000000101, .c05),
      (0b0000000110, .c06),
      (0b0000000111, .c07),
      (0b0000001000, .c08),
      (0b0000001010, .c0a),
      (0b0000001100, .c0c),
      (0b0000001110, .c0e)] : List (BusWord × Instr)).all
      (fun p => decodeBus p.1 = .ok p.2) := by decide

/-- spec/opcode_table.json, bus rows, second half. -/
theorem test_decode_bus_high :
    ([(0b0000001111, .c0f),
      (0b0000010000, .c10),
      (0b0000010100, .c14),
      (0b0000011000, .c18),
      (0b0000011100, .c1c),
      (0b0000110000, .c30),
      (0b0000111000, .c38),
      (0b0010000000, .c80),
      (0b0011000000, .cc0),
      (0b1010100101, .data 0xA5)] : List (BusWord × Instr)).all
      (fun p => decodeBus p.1 = .ok p.2) := by decide

/-- 95_test_vectors.md section 6: the words that raise `Fault(1)`, by the reason. -/
theorem test_reject_requests :
    decodeRequest 0x0000 = .error (.reservedOp 0b00000) ∧ decodeRequest 0x07FF = .error (.reservedOp 0b00000) ∧
    decodeRequest 0x2800 = .error (.reservedOp 0b00101) ∧ decodeRequest 0x7FFF = .error (.reservedOp 0b01111) ∧
    decodeRequest 0x0801 = .error (.mustBeZero 0x0801) ∧ decodeRequest 0x1100 = .error (.mustBeZero 0x1100) ∧
    decodeRequest 0x2141 = .error (.mustBeZero 0x2141) ∧ decodeRequest 0xFFFF = .error (.mustBeZero 0xFFFF) := by
  decide

/-- R81, R82: a word with RW high and a command byte outside the nineteen have no row. -/
theorem test_reject_bus :
    decodeBus 0b0100000001 = .error (.noBusRow 0b0100000001) ∧
    decodeBus 0b1101000001 = .error (.noBusRow 0b1101000001) ∧
    decodeBus 0b0000000011 = .error (.noBusRow 0b0000000011) := by decide

/-- R59, of a bus word log entry 27: the low byte goes first; a short or overlong word is rejected by name. -/
theorem test_decode_bytes :
    decodeBytes .request [0x0E, 0x10, 0x77] = .ok (.render false .top 14, [0x77]) ∧
    decodeBytes .bus [0xA5, 0x02] = .ok (.data 0xA5, []) ∧
    decodeBytes .request [0x0E] = .error .truncated ∧
    decodeBytes .bus [0xA5, 0x12] = .error (.overlong 0x12A5) := by decide

/-- The table's numbering: request rows are 16 bits, bus rows 10, whole bytes 16. -/
theorem test_decode_table_words :
    decodeTableWord 16 0x0800 = some .init ∧ decodeTableWord 16 0x0001 = some .c01 ∧
    decodeTableWord 10 0x241 = some (.data 0x41) ∧ decodeTableWord 16 0x8001 = none ∧
    decodeTableWord 16 0x18001 = none := by decide

/-! ### Ill-formed terms, which the checks refuse -/

theorem test_wf_space :
    Instr.wf .request .c01 = false ∧ Instr.wf .bus .init = false ∧ Instr.wf .request .init = true ∧
    Instr.wf .bus (.data 0) = true := by decide

/-- R30: two signals on one pin. -/
theorem test_wf_pins : PinMap.wf { rs := 0, rw := 1, en := 2, d := #v[3, 4, 5, 6, 7, 8, 9, 0] } = false := by
  decide

/-- R7, R29: a dwell of no milliseconds, a capacity below 17. -/
theorem test_wf_config :
    Config.wf { Config.platform with dwellMs := 0 } = false ∧
    Config.wf { Config.platform with msgCap := 16 } = false ∧
    Config.wf { Config.platform with msgCap := 17 } = true := by decide

/-- R7: `LEN_W` for capacities 17, 31, 32, 40 is 5, 5, 6, 6. -/
theorem test_len_w :
    ([17, 31, 32, 40].map fun n => Config.lenW { Config.platform with msgCap := n }) = [5, 5, 6, 6] := by
  decide

/-! ### Small states -/

/-- The machine just after reset with a host that presents `h`. -/
def port (h : List HostInput) : State := { State.reset with host := h }

/-- A controller known after `INIT; DON`. -/
def lit : Display :=
  { Display.afterInit with displayEnabled := some true }

/-- A pulse with the bus word `w` in progress, the controller known as `d`. -/
def pulse (w : BusWord) (d : Display) : State :=
  { State.reset with strobe := some w, observer := { phase := .ready, seen := 0, display := d } }

/-- `CLR` accepted and at event `n`, the host presenting `h`. -/
def clrAt (n : Nat) (h : List HostInput := []) : State :=
  { State.reset with opreg := 0x8000, seq := .pos n, host := h }

/-- The next state passes the check `p`. -/
def nextIs (r : Result) (p : State → Bool) : Bool :=
  match r with
  | .next t => p t
  | .fault _ => false
  | .refused _ => false

theorem next_of {r : Result} {p : State → Bool} (h : nextIs r p = true) : ∃ t, r = .next t ∧ p t = true := by
  cases r with
  | next t => exact ⟨t, rfl, h⟩
  | fault f => cases h
  | refused f => cases h

theorem port_atPort (h : List HostInput) : AtPort (port h) :=
  ⟨by simp only [port]; decide, rfl, rfl, rfl, rfl⟩

theorem clrAt_atEvent (n : Nat) (h : List HostInput) : AtEvent (clrAt n h) n :=
  ⟨by simp only [clrAt]; decide, rfl, rfl, rfl, rfl⟩

/-! ### One step each -/

/-- R85, R88: every request word of the table, presented, is accepted. -/
theorem test_requests_accepted :
    ([0x0800, 0x1000, 0x18A5, 0x2041, 0x8000, 0x8800, 0x9000, 0x9800, 0xA000, 0xA800, 0xB000, 0xB800, 0xC000,
      0xC800, 0xD000, 0xD800, 0xE000, 0xE800, 0xF000, 0xF800] : List ReqWord).all
      (fun w => nextIs (step (port [.request w]))
        fun t => t.seq = .pos 0 && t.opreg == w && t.trace == cfgEvents && t.host == []) := by decide +kernel

/-- R88: the latches a RENDER takes. -/
theorem test_render_latches :
    nextIs (step { port [.request 0x16FF] with msgLen := 17, dropped := true, idx := 3, cnt := 9 })
      fun t => t.rLen = 17 && !t.dropped && t.cnt == 0 && t.idx == 0 := by decide +kernel

/-- V7.1, R90, R92, R233: the first code is kept. -/
theorem test_faults :
    nextIs (step (port [.request 0x0000])) (fun t => t.fault == 1 && t.responses == [1] && t.status == 0b0100) ∧
    nextIs (step { port [.request 0x1400] with msgLen := 41, fault := 1 })
      (fun t => t.fault == 1 && t.responses == [2] && t.seq == .idle) ∧
    nextIs (step { port [.request 0x1500] with msgLen := 41 }) (fun t => t.fault == 1 && t.responses == [1]) := by
  decide +kernel

/-- R53: a write below `MSG_CAP`, one at it, a length, and a write with a request. -/
theorem test_host_writes :
    nextIs (step (port [.write (.byte 39 0x41)])) (fun t => t.memRead 39 == some 0x41) ∧
    nextIs (step (port [.write (.byte 40 0x41)])) (fun t => t.msg == [] && t.memRead 40 == none) ∧
    nextIs (step (port [.write (.len 41)])) (fun t => t.msgLen == 41) ∧
    nextIs (step (port [.write (.len 64)])) (fun t => t.msgLen == 0) ∧
    nextIs (step (port [.both (.len 5) 0x1000])) (fun t => t.rLen == 5 && t.seq == .pos 0) := by decide +kernel

/-- R112, V2.3: what the events of `CLR` drive, at events 0, 9, 10, 11 and 12. -/
theorem test_transfer_events :
    nextIs (step (clrAt 0)) (fun t => t.trace == cfgEvents ++ [.set .rw .low] && t.tVal == 1 && t.seq == .pos 1) ∧
    nextIs (step { clrAt 9 with tVal := 0xA5 }) (fun t => t.trace == cfgEvents ++ [.set (.d 0) .high]) ∧
    nextIs (step (clrAt 10)) (fun t => t.pins.en == .driven .high) ∧
    nextIs (step (clrAt 11)) (fun t => t.trace == cfgEvents ++ [.dwell 5] && t.seq == .pos 12) ∧
    nextIs (step (clrAt 12)) (fun t => t.pins.en == .driven .low && t.seq == .idle && t.responses == [0]) := by
  decide +kernel

/-- R171, R177: in V5.4 event 17·13 begins the row jump `CC0`, and its end sets `DROPPED`. -/
theorem test_row_jump :
    nextIs (step { State.reset with opreg := 0x1000, rLen := 17, seq := .pos 221, idx := 16 })
      (fun t => t.tKind == .command && t.tVal == 0xC0) ∧
    nextIs (step { State.reset with opreg := 0x1000, rLen := 17, seq := .pos 233, idx := 16 })
      (fun t => t.dropped && t.status == 0b0011) := by decide +kernel

/-- R52, R176: the character at `IDX` is fetched as the transfer's value. -/
theorem test_character :
    nextIs (step { State.reset with opreg := 0x1000, rLen := 2, seq := .pos 26, idx := 1, msg := [(1, 0x69)] })
      (fun t => t.tKind == .data && t.tVal == 0x69) := by decide +kernel

/-- R161: `INIT` step 1 lowers EN from high, and what the observer knew is gone (R272). -/
theorem test_init_step1 :
    nextIs (step { State.reset with
        opreg := 0x0800, seq := .pos 2, pins := { PinLatches.undefined with en := .driven .high }
        observer := { phase := .ready, seen := 0, display := lit } })
      (fun t => t.pins.en == .driven .low && t.observer == Observer.lost) := by decide +kernel

/-- R40, R260, V8.2: reset in the middle of a transfer. -/
theorem test_reset_in_transfer :
    nextIs (step { clrAt 11 with
        resetIn := [true], fault := 2, msgLen := 7, pins := { PinLatches.undefined with en := .driven .high } })
      (fun t => t.seq == .idle && t.status == 0 && t.msgLen == 0 && t.trace == [] && t.inReset &&
        t.pins == PinLatches.undefined && t.observer == Observer.lost) := by decide +kernel

/-- R261, V8.1: release of reset. -/
theorem test_release :
    nextIs (step { State.reset with inReset := true, trace := [] })
      (fun t => t.trace == [.cfg .rs, .cfg .rw, .cfg .en, .cfg (.d 0), .cfg (.d 1), .cfg (.d 2), .cfg (.d 3),
        .cfg (.d 4), .cfg (.d 5), .cfg (.d 6), .cfg (.d 7)] && !t.inReset) := by decide +kernel

/-- R30: the refusal. -/
theorem test_refuses_configuration :
    step (State.resetWith { Config.platform with
        pins := { rs := 0, rw := 0, en := 2, d := #v[3, 4, 5, 6, 7, 8, 9, 10] } }) =
      .refused .badConfiguration := if_neg (by decide)

/-- V3.4, R204 to R216: pointer and flags after one bus word from the state after `INIT; DON`. -/
theorem test_bus_pointer :
    ([(0x0C0, some .bottom, some 0), (0x080, some .top, some 0), (0x014, some .top, some 1),
      (0x010, some .top, none), (0x241, some .top, some 1), (0x001, some .top, some 0),
      (0x002, some .top, some 0), (0x006, some .top, some 0), (0x030, some .top, some 0),
      (0x038, some .top, some 0)] : List (BusWord × Option Row × Option Nat)).all
      (fun p => nextIs (step (pulse p.1 lit))
        fun t => t.observer.display.row == p.2.1 && t.observer.display.col == p.2.2) := by decide +kernel

/-- R209, R210: display, cursor and blink after each display-control byte. -/
theorem test_bus_control :
    ([(0x008, false, false, false), (0x00A, false, true, false), (0x00C, true, false, false),
      (0x00E, true, true, false), (0x00F, true, true, true)] : List (BusWord × Bool × Bool × Bool)).all
      (fun p => nextIs (step (pulse p.1 lit)) fun t =>
        t.observer.display.displayEnabled == some p.2.1 && t.observer.display.cursorVisible == some p.2.2.1 &&
        t.observer.display.cursorBlinking == some p.2.2.2) := by decide +kernel

/-- R214, R216: shift and entry mode. -/
theorem test_bus_shift :
    ([(0x018, some .increment, some (-1)), (0x01C, some .increment, some 1), (0x004, none, none),
      (0x005, none, none), (0x007, none, none)] : List (BusWord × Option EntryMode × Option Int)).all
      (fun p => nextIs (step (pulse p.1 lit)) fun t =>
        t.observer.display.entryMode == p.2.1 && t.observer.display.shift == p.2.2) := by decide +kernel

/-- R221, V4.1, V4.2: an initialization, from a controller known with the pointer elsewhere and from one that is not,
with `OBS_06_MOVES` and without. -/
theorem test_init_seen :
    [false, true].all (fun moves =>
      [Observer.initial, { phase := .ready, seen := 0, display := { lit with col := some 5, entryMode := none } }].all
        fun o => (o.steps moves [0x030, 0x030, 0x030, 0x038, 0x008, 0x001, 0x006]).display ==
          { row := some .top, col := some 0, cells := Grid.filled (some 0x20), displayEnabled := some false
            cursorVisible := some false, cursorBlinking := some false, entryMode := some .increment
            shift := some 0, offgrid := some false }) := by decide +kernel

/-- R206, R207: the last visible column, and the first beyond it. -/
theorem test_bus_store :
    nextIs (step (pulse 0x241 { lit with col := some 15 })) (fun t =>
      t.observer.display.cells.get .top 15 == some 0x41 && t.observer.display.col == some 16 &&
      t.observer.display.offgrid == some false) ∧
    nextIs (step (pulse 0x241 { lit with col := some 16 })) (fun t =>
      t.observer.display.cells == lit.cells && t.observer.display.offgrid == some true) := by decide +kernel

/-- `MSG` of V1.4, "Sapphire Labs". -/
def sapphire : List Byte :=
  [0x53, 0x61, 0x70, 0x70, 0x68, 0x69, 0x72, 0x65, 0x20, 0x4C, 0x61, 0x62, 0x73]

/-- V1.4: 46 transfers, `C80 C80`, fifteen times `D20 C06`, `C80` and the characters, with no row jump. -/
theorem test_sapphire_labs :
    let ts := renderTransfers true .top 0 sapphire
    ts.length = 46 ∧ ts.take 4 = [.c 0x80, .c 0x80, .d 0x20, .c 0x06] ∧
    ts.drop 30 = [.d 0x20, .c 0x06, .c 0x80] ++ sapphire.map Transfer.d := by decide

/-- V5.6: `RENDER "", 2, 1, 0`. -/
theorem test_render_empty :
    renderTransfers false .bottom 2 [] = [.c 0xC0, .c 0x06, .c 0x06] := by decide +kernel

/-- V5.6: the call that has `startColumn` 14 and no clear. -/
theorem test_render_call :
    renderCall [0x48, 0x69] 14 .top false =
      [.write (.byte 0 0x48), .write (.byte 1 0x69), .write (.len 2), .request 0x100E] := by decide

/-- A request and a bus word, each put where the next step fetches. -/
theorem test_fetch_words :
    nextIs (step (State.reset.withFetchWord 16 0x8000)) (fun s => s.opreg = 0x8000 ∧ s.seq = .pos 0) ∧
    nextIs (step ((pulse 0x000 lit).withFetchWord 10 0x241)) (fun s =>
      s.strobe = none ∧ s.observer.display.cells.get .top 0 = some 0x41) := by decide +kernel

/-! ### Witnesses: for every statement with hypotheses, states and operands that meet them -/

theorem wit_decodeOfEncode :
    Instr.wf .request (.render true .bottom 255) = true ∧ Instr.wf .bus (.data 0) = true := by decide

theorem wit_encodeOfDecode :
    decode (.request 0x16FF) = .ok (.render true .bottom 255) ∧ decode (.bus 0x2FF) = .ok (.data 0xFF) := by
  decide

theorem wit_stepRunsPresentedRequest :
    AtPort (port [.request 0xF800]) ∧ AtPort (port [.both (.len 3) 0xF800]) ∧
    decodeRequest 0xF800 = .ok .row1 := ⟨port_atPort _, port_atPort _, by decide⟩

theorem wit_stepRunsStrobedBusWord :
    (pulse 0x001 lit).cfg.wf = true ∧ (pulse 0x001 lit).strobe = some 0x001 ∧ decodeBus 0x001 = .ok .c01 ∧
    (pulse 0x003 lit).strobe = some 0x003 ∧ ∀ i, decodeBus 0x003 ≠ .ok i := by
  refine ⟨by decide, rfl, by decide, rfl, fun i h => ?_⟩
  have : decodeBus 0x003 = .error (.noBusRow 0x003) := by decide
  rw [this] at h
  cases h

/-- A RENDER at the longest length the buffer holds. -/
theorem wit_requestAccepted :
    encode .donb = .request 0xC800 ∧ encode (.render false .top 0) = .request 0x1000 ∧
    (port []).seq = .idle ∧ (∀ c r col, Instr.donb ≠ .render c r col) ∧
    ({ port [] with msgLen := 40 } : State).msgLen ≤ ({ port [] with msgLen := 40 } : State).cfg.msgCap := by
  refine ⟨by decide, by decide, rfl, by simp, by decide⟩

theorem wit_heldOffWhileBusy :
    encode .clr = .request 0x8000 ∧ (clrAt 0).busy = true ∧
    AtEvent (clrAt 0 [.request 0x8800]) 0 ∧ (∃ t, step (clrAt 0 [.request 0x8800]) = .next t) ∧
    (∀ rest, (clrAt 0 [.request 0x8800]).host ≠ .quiet :: rest) := by
  refine ⟨by decide, rfl, clrAt_atEvent _ _, ?_, by simp [clrAt]⟩
  obtain ⟨t, ht, _⟩ := next_of (p := fun _ => true) (r := step (clrAt 0 [.request 0x8800])) (by decide +kernel)
  exact ⟨t, ht⟩

/-- The first event of `CLR` and its last. -/
theorem wit_sequencerPerformsOneEvent :
    (AtEvent (clrAt 0) 0 ∧ ∃ t, step (clrAt 0) = .next t ∧ t.seq = .pos 1) ∧
    (AtEvent (clrAt 12) 12 ∧ ∃ t, step (clrAt 12) = .next t ∧ t.seq = .idle) := by
  obtain ⟨t, ht, h1⟩ := next_of (p := fun t => decide (t.seq = .pos 1)) (r := step (clrAt 0)) (by decide +kernel)
  obtain ⟨u, hu, h2⟩ := next_of (p := fun t => decide (t.seq = .idle)) (r := step (clrAt 12)) (by decide +kernel)
  exact ⟨⟨clrAt_atEvent _ _, t, ht, of_decide_eq_true h1⟩, clrAt_atEvent _ _, u, hu, of_decide_eq_true h2⟩

/-- One byte commands, `DONB`, the raw transfers, `INIT` and the idle stutter ask for an engine at its port. -/
theorem wit_atPort :
    AtPort State.reset ∧ (Instr.row1, (0xF800 : ReqWord), (0xC0 : Byte)) ∈ oneByteCommands ∧
    (port []).host = [] ∧ AtPort (port []) := ⟨port_atPort [], by decide, rfl, port_atPort []⟩

/-- The lengths where the row jump and the capacity meet: 0, 16, 17 and 40. -/
theorem wit_renderCompletes :
    ∀ n ∈ [0, 16, 17, 40], AtPort { State.reset with msgLen := n } ∧
      ({ State.reset with msgLen := n } : State).msgLen ≤ ({ State.reset with msgLen := n } : State).cfg.msgCap := by
  intro n hn
  refine ⟨⟨by simp only; decide, rfl, rfl, rfl, rfl⟩, ?_⟩
  revert n
  decide

/-- Two engines with one message byte and different pins, fault codes and traces. -/
theorem wit_renderIdempotent :
    let s : State := { State.reset with msg := [(0, 0x41)], msgLen := 1 }
    let s' : State := { State.reset with
      msg := [(0, 0x41), (1, 0x42)], msgLen := 1, fault := 2, trace := [], pins := (Transfer.d 0x41).latches }
    AtPort s ∧ AtPort s' ∧ s.cfg.dwellMs = s'.cfg.dwellMs ∧ s.msgLen = s'.msgLen ∧
    s.msgLen ≤ s.cfg.msgCap ∧ s'.msgLen ≤ s'.cfg.msgCap ∧ s.message s.msgLen = s'.message s'.msgLen := by
  refine ⟨⟨by simp only; decide, rfl, rfl, rfl, rfl⟩, ⟨by simp only; decide, rfl, rfl, rfl, rfl⟩, rfl, rfl,
    by decide, by decide, rfl⟩

/-- The least fuel: one phase for each transfer. -/
theorem wit_renderPhasesAgree :
    (renderTransfers true .bottom 2 []).length ≤ 35 ∧ (renderTransfers false .top 0 []).length ≤ 1 := by decide

/-- The pulse of the second of two transfers. -/
theorem wit_enablePulse :
    (transferEvents 5 [.c 0x0E, .c 0x0F])[23]? = some (.set .en .high) ∧
    (transferEvents 5 [.c 0x0E, .c 0x0F])[23 + 1]? = some (.dwell 5) := by decide

theorem wit_rwNeverHigh :
    ∃ t, step (clrAt 0) = .next t ∧ .set .rw .high ∉ (clrAt 0).trace := by
  obtain ⟨t, ht, _⟩ := next_of (p := fun _ => true) (r := step (clrAt 0)) (by decide +kernel)
  exact ⟨t, ht, by decide⟩

/-- A word at the edge of each clause of R90. -/
theorem wit_illegalWordFaults :
    ∀ w ∈ ([0x07FF, 0x2800, 0x7FFF, 0x0801, 0x0C00, 0x8001, 0xFFFF, 0x1900, 0x1C01, 0x2201, 0x1100] : List ReqWord),
      AtPort (port [.request w]) ∧ (port [.request w]).host = [.request w] ∧ IllegalWord w := by
  intro w hw
  refine ⟨port_atPort _, rfl, ?_⟩
  simp only [List.mem_cons, List.not_mem_nil, or_false] at hw
  unfold IllegalWord
  rcases hw with rfl | rfl | rfl | rfl | rfl | rfl | rfl | rfl | rfl | rfl | rfl <;> decide

/-- One byte over the capacity. -/
theorem wit_lengthFaults :
    let s (w : ReqWord) : State := { port [.request w] with msgLen := 41 }
    (∀ w, AtPort (s w) ∧ (s w).host = [.request w] ∧ (s w).cfg.msgCap < (s w).msgLen) ∧
    encode (.render true .top 0) = .request 0x1400 ∧ IllegalWord 0x1500 := by
  refine ⟨fun w => ⟨⟨(port_atPort []).config, rfl, rfl, rfl, rfl⟩, rfl, Nat.lt_succ_self 40⟩, by decide, ?_⟩
  unfold IllegalWord
  decide

/-- Each way in which `FAULT` changes: an illegal word, a length, reset. -/
theorem wit_faultIsSticky :
    (∃ t, step (port [.request 0x0000]) = .next t ∧ t.fault ≠ (port [.request 0x0000]).fault) ∧
    (∃ t, step { port [.request 0x1400] with msgLen := 41 } = .next t ∧
      t.fault ≠ ({ port [.request 0x1400] with msgLen := 41 } : State).fault) ∧
    (∃ t, step { port [] with resetIn := [true], fault := 2 } = .next t ∧
      t.fault ≠ ({ port [] with resetIn := [true], fault := 2 } : State).fault) := by
  refine ⟨?_, ?_, ?_⟩
  · obtain ⟨t, ht, h⟩ := next_of (p := fun t => decide (t.fault = 1)) (r := step (port [.request 0x0000])) (by decide +kernel)
    exact ⟨t, ht, by rw [of_decide_eq_true h]; decide⟩
  · obtain ⟨t, ht, h⟩ := next_of (p := fun t => decide (t.fault = 2))
      (r := step { port [.request 0x1400] with msgLen := 41 }) (by decide +kernel)
    exact ⟨t, ht, by rw [of_decide_eq_true h]; decide⟩
  · obtain ⟨t, ht, h⟩ := next_of (p := fun t => decide (t.fault = 0))
      (r := step { port [] with resetIn := [true], fault := 2 }) (by decide +kernel)
    exact ⟨t, ht, by rw [of_decide_eq_true h]; decide⟩

theorem wit_faultDoesNotDisable :
    (port []).seq = .idle ∧ ∃ u, exec .clr (port []) = .next u ∧ u.seq = .pos 0 := ⟨rfl, _, rfl, rfl⟩

theorem wit_simultaneousEvents :
    ((clrAt 11 [.request 0x8800]).cfg.wf = true ∧ (clrAt 11 [.request 0x8800]).strobe = none ∧
      ({ clrAt 11 [.request 0x8800] with resetIn := [true] } : State).resetIn = [true]) ∧
    (AtEvent (clrAt 12 [.request 0x8800]) 12 ∧ 12 + 1 = (clrAt 12 [.request 0x8800]).program.length ∧
      (clrAt 12 [.request 0x8800]).host = [.request 0x8800]) ∧
    (AtPort (port [.both (.len 40) (wordR 0b00010 true .top 0)]) ∧ 40 ≤ (port []).cfg.msgCap) :=
  ⟨⟨by decide, rfl, rfl⟩, ⟨clrAt_atEvent _ _, by decide, rfl⟩, port_atPort _, by decide⟩

/-- The last byte of the buffer and the first beyond it; the longest length the register holds; a busy engine. -/
theorem wit_hostWrites :
    (AtPort (port [.write (.byte 39 0x41)]) ∧ 39 < (port []).cfg.msgCap) ∧
    (AtPort (port [.write (.byte 40 0x41)]) ∧ (port []).cfg.msgCap ≤ 40) ∧
    (AtPort (port [.write (.len 63)]) ∧ 63 < 2 ^ (port []).cfg.lenW ∧ (port []).cfg.msgCap < 63) ∧
    (AtEvent (clrAt 0 [.write (.len 3)]) 0 ∧ ∃ u, step (clrAt 0 [.write (.len 3)]) = .next u) := by
  refine ⟨⟨port_atPort _, by decide⟩, ⟨port_atPort _, by decide⟩, ⟨port_atPort _, by decide, by decide⟩,
    clrAt_atEvent _ _, ?_⟩
  obtain ⟨t, ht, _⟩ := next_of (p := fun _ => true) (r := step (clrAt 0 [.write (.len 3)])) (by decide +kernel)
  exact ⟨t, ht⟩

theorem wit_messageMemory :
    let s : State := { State.reset with msg := [(0, 0x41), (39, 0x42)] }
    s.msg.read? 39 = some 0x42 ∧ 39 < s.cfg.msgCap ∧ s.cfg.msgCap ≤ 40 ∧ s.msg.wf := by
  refine ⟨by decide, by decide, by decide, by decide⟩

theorem wit_configurationImmutable :
    (∃ t, step (clrAt 0) = .next t) ∧
    ¬ (State.resetWith { Config.platform with
        pins := { rs := 0, rw := 1, en := 2, d := #v[3, 4, 5, 6, 7, 8, 9, 9] } }).cfg.pins.ids.Nodup := by
  obtain ⟨t, ht, _⟩ := next_of (p := fun _ => true) (r := step (clrAt 0)) (by decide +kernel)
  exact ⟨⟨t, ht⟩, by decide⟩

/-- Reset with EN low, and in the middle of a pulse. -/
theorem wit_resetAsserted :
    (∀ l : Level, ∃ s : State, s.cfg.wf = true ∧ s.strobe = none ∧ s.resetIn = [true] ∧ s.pins.en = .driven l) :=
  fun l => ⟨{ clrAt 11 with resetIn := [true], pins := { PinLatches.undefined with en := .driven l } },
    by simp only [clrAt]; decide, rfl, rfl, rfl⟩

theorem wit_releaseConfiguresPins :
    ∃ s : State, s.cfg.wf = true ∧ s.strobe = none ∧ s.resetIn = [true] ∧ s.seq = .pos 11 :=
  ⟨{ clrAt 11 with resetIn := [true] }, by simp only [clrAt]; decide, rfl, rfl, rfl⟩

theorem pulse_knows (w : BusWord) (d : Display) : (pulse w d).knows d := ⟨rfl, rfl⟩

/-- The observer's statements about a known Display, with the edges of the columns: 0, 14, 15, 16, and unknown. -/
theorem wit_observerKnows :
    (∀ c ∈ [0, 14, 15, 16], ∃ d : Display, (pulse 0x014 d).knows d ∧ d.col = some c ∧ d.row = some .bottom ∧
      d.entryMode = some .increment ∧ d.displayEnabled = some true ∧ d.displayEnabled ≠ some false) ∧
    (∃ d : Display, (pulse 0x241 d).knows d ∧ d.entryMode = none ∧ d.entryMode ≠ some .increment) ∧
    (∃ d : Display, (pulse 0x241 d).knows d ∧ d.col = none ∧ d.offgrid = some true) ∧
    (∃ d : Display, (pulse 0x018 d).knows d ∧ d.displayEnabled = some true ∧ d.shift ≠ some 0) :=
  ⟨fun c _ => ⟨{ lit with col := some c, row := some .bottom }, pulse_knows _ _, rfl, rfl, rfl, rfl, by simp [lit]⟩,
   ⟨{ lit with entryMode := none }, pulse_knows _ _, rfl, by decide⟩,
   ⟨{ lit with col := none, offgrid := some true }, pulse_knows _ _, rfl, rfl⟩,
   ⟨{ lit with shift := some (-1) }, pulse_knows _ _, rfl, by decide⟩⟩

/-- Both values of `OBS_06_MOVES`, in and outside an initialization, at the columns 14 and 15 and at none. -/
theorem wit_observerEntryIncrement :
    ∀ b : Bool, ∀ n ∈ [0, 6], ∀ c ∈ [some 14, some 15, none],
      ∃ (s : State) (d : Display), s.knows d ∧ s.cfg.obs06Moves = b ∧ s.observer.seen = n ∧ d.col = c :=
  fun b n _ c _ =>
    ⟨{ pulse 0x006 lit with
        cfg := { Config.platform with obs06Moves := b }
        observer := { phase := .ready, seen := n, display := { lit with col := c } } },
      _, ⟨rfl, rfl⟩, rfl, rfl, rfl⟩

/-- A store at an unknown column or row, with entry mode increment and without, at column 15 and beyond. -/
theorem wit_observerUnknownPointer :
    (∀ c ∈ [some 15, some 16, none], ∀ o ∈ [some true, some false, none], ∀ m ∈ [some EntryMode.increment, none],
      ∃ d : Display, (pulse 0x241 d).knows d ∧ d.col = c ∧ d.row = none ∧ d.offgrid = o ∧ d.entryMode = m) ∧
    (∃ d : Display, (pulse 0x241 d).knows d ∧ d.entryMode = some .increment ∧ d.row = some .top ∧ d.col = none) ∧
    (∃ d : Display, (pulse 0x241 d).knows d ∧ d.entryMode = some .decrement) :=
  ⟨fun c _ o _ m _ => ⟨{ lit with col := c, row := none, offgrid := o, entryMode := m }, pulse_knows _ _,
      rfl, rfl, rfl, rfl⟩,
   ⟨{ lit with col := none }, pulse_knows _ _, rfl, rfl, rfl⟩,
   ⟨{ lit with entryMode := some .decrement }, pulse_knows _ _, rfl⟩⟩

theorem wit_observerBeforeInit :
    encode .c06 = .bus 0x006 ∧ encode (.data 0x41) = .bus 0x241 ∧
    State.reset.observer.phase = .waiting ∧
    (∀ n ∈ [5, 6], ∃ s : State, s.observer.phase = .waiting ∧ s.observer.seen = n) ∧
    ¬ (5 = 6 ∧ Instr.c06 = .c06) ∧ ¬ (6 = 6 ∧ Instr.data 0x41 = .c06) ∧
    ({ State.reset with observer := Observer.blinded } : State).observer.phase = .blind :=
  ⟨by decide, by decide, rfl,
    fun n _ => ⟨{ State.reset with observer := { Observer.initial with seen := n } }, rfl, rfl⟩,
    by decide, by decide, rfl⟩

/-- A trace with an initialization and words after it; a trace without; a blind observer with a word before. -/
theorem wit_observerNeedsInit :
    (Observer.initial.phase ≠ .blind ∨ ([] : List BusWord) ≠ []) ∧
    (Observer.blinded.phase ≠ .blind ∨ ([0x001] : List BusWord) ≠ []) ∧
    ([0x00C, 0x241] : List BusWord).map decodeBus = [Instr.c0c, .data 0x41].map .ok ∧
    ¬ ([0x030, 0x030, 0x030, 0x038, 0x008, 0x001, 0x006] : List BusWord) <:+: [0x00C, 0x241] ∧
    (¬ ∃ (a b : List BusWord) (is : List Instr),
      ([0x030, 0x030, 0x038] : List BusWord) =
        a ++ [0x030, 0x030, 0x030, 0x038, 0x008, 0x001, 0x006] ++ b ∧ b.map decodeBus = is.map .ok) := by
  refine ⟨.inl (by decide), .inr (by decide), by decide, by decide, ?_⟩
  rintro ⟨a, b, is, h, _⟩
  have := congrArg List.length h
  simp at this
  omega

theorem wit_initEstablishesDisplay :
    AtPort State.reset ∧ State.reset.observer.phase ≠ .blind ∧
    AtPort (State.resetWith { Config.platform with obs06Moves := true }) :=
  ⟨port_atPort [], by decide, ⟨by decide, rfl, rfl, rfl, rfl⟩⟩

/-- The start columns where the message meets the edge, with `OBS_06_MOVES` and without, and the lengths at which each
clause begins and ends. -/
theorem wit_messageSeen :
    lit.entryMode = some .increment ∧ 14 = (if true then (14 : StartCol).toNat else 0) ∧
    0 = (if false then (14 : StartCol).toNat else 0) ∧ 255 = (if true then (255 : StartCol).toNat else 0) ∧
    (∀ len ∈ [0, 16, 17, 32], ∃ msg : List Byte, msg.length = len ∧
      0 ≤ 15 ∧ 0 + min msg.length 16 ≤ 16 ∧ msg.length ≤ 32) ∧
    (∃ msg : List Byte, msg.length = 2 ∧ 14 ≤ 15 ∧ 14 + min msg.length 16 ≤ 16 ∧ msg.length ≤ 32) ∧
    (∃ msg : List Byte, msg.length = 3 ∧ 0 < msg.length ∧ 16 < 14 + min msg.length 16) ∧
    (∃ msg : List Byte, msg.length = 33 ∧ 32 < msg.length) ∧
    (∃ msg : List Byte, msg.length = 17 ∧ 16 + 0 < msg.length ∧ 0 < 16) := by
  refine ⟨rfl, rfl, rfl, rfl, fun len h => ⟨List.replicate len 0, ?_⟩, ⟨List.replicate 2 0, by simp⟩,
    ⟨List.replicate 3 0, by simp⟩, ⟨List.replicate 33 0, by simp⟩, ⟨List.replicate 17 0, by simp⟩⟩
  simp only [List.length_replicate, true_and]
  simp only [List.mem_cons, List.not_mem_nil, or_false] at h
  omega

theorem wit_glassShowsCells :
    lit.displayEnabled = some true ∧ lit.shift = some 0 ∧ lit.offgrid = some false ∧
    lit.cells.get .top 15 = some 0x20 ∧ Display.afterInit.displayEnabled = some false ∧
    (pulse 0x241 Display.afterInit).knows Display.afterInit ∧
    Display.afterInit.entryMode = some .increment ∧ Display.afterInit.row = some .top ∧
    Display.afterInit.col = some 0 := by
  exact ⟨rfl, rfl, rfl, rfl, rfl, pulse_knows _ _, rfl, rfl, rfl⟩

theorem wit_engineIgnoresObserver : ∃ t, step (clrAt 10) = .next t := by
  obtain ⟨t, ht, _⟩ := next_of (p := fun _ => true) (r := step (clrAt 10)) (by decide +kernel)
  exact ⟨t, ht⟩

theorem wit_execFrame :
    (∃ t, exec .clr (port []) = .next t) ∧ (∃ t, exec .c01 (pulse 0x001 lit) = .next t) ∧
    Instr.clr.space = .request ∧ Instr.c01.space = .bus ∧ (∀ c r col, Instr.clr ≠ .render c r col) :=
  ⟨⟨_, rfl⟩, ⟨_, rfl⟩, rfl, rfl, by simp⟩

/-- A busy engine that meets the invariant: `CLR` just accepted. -/
theorem wit_inv : Inv (clrAt 0) ∧ (clrAt 0).resetIn = [] ∧ ∃ t, step (clrAt 0) = .next t := by
  refine ⟨?_, rfl, ?_⟩
  · refine ⟨by decide, ⟨by decide, by decide⟩, ⟨by decide, by decide⟩, ⟨by decide, by decide⟩,
      ⟨by decide, by simp [clrAt, State.reset, State.resetWith]⟩, fun _ => by decide, ?_, fun n hn => ?_⟩
    · intro h
      cases h
    obtain rfl : n = 0 := by cases hn; rfl
    refine ⟨.down, rfl, by decide, ?_, ?_, by decide, by decide, by decide⟩
    · have : (clrAt 0).program = clrProgram := by decide
      simp [this, clrProgram, transfersMicros, transferMicros, transportPhases, pulsesWhole, Pulse.after]
    · have : (clrAt 0).program = clrProgram := by decide
      simp [this, clrProgram, transfersMicros, transferMicros, transportPhases, staysInRange, latchesInRange, cmd]
  · obtain ⟨t, ht, _⟩ := next_of (p := fun _ => true) (r := step (clrAt 0)) (by decide +kernel)
    exact ⟨t, ht⟩

theorem wit_invAtReset : Config.platform.wf = true := by decide

end Sys2Proof.Tests
end

section
/-! The request decoder: what each format accepts, and what the rejected words are (R84 to R90). -/

namespace Sys2Proof.StateProofs

open Sys2Proof Sys2Proof.Laws Sys2Proof.Machine

/-! ### The formats -/

variable {w : ReqWord} {i j : Instr} {mk : Byte → Instr}

theorem formatN_ok_iff : formatN w i = .ok j ↔ w.extractLsb' 0 11 = 0 ∧ i = j := by
  unfold formatN
  split <;> simp_all

theorem formatW_ok_iff :
    formatW w mk = .ok j ↔ w.extractLsb' 8 3 = 0 ∧ mk (lowByte w) = j := by
  unfold formatW
  split <;> simp_all

theorem formatR_ok_iff :
    formatR w = .ok j ↔ w.getLsbD 8 = false ∧
      Instr.render (w.getLsbD 10) (rowOfBit (w.getLsbD 9)) (colField w) = j := by
  unfold formatR
  split <;> simp_all

/-- A word of format N is its operation field alone (R84). -/
theorem wordN_opField (h : w.extractLsb' 0 11 = 0) : wordN (opField w) = w :=
  reqWord_ext (opField_wordN _) (by rw [wordN_zeros, h])

/-- A word of format W is its operation field and its value (R84, R86). -/
theorem wordW_fields (h : w.extractLsb' 8 3 = 0) : wordW (opField w) (lowByte w) = w := by
  refine reqWord_ext (opField_wordW _ _) ?_
  have hz (k : Nat) (hk : k < 3) : w[8 + k]'(by omega) = false := by
    have := congrArg (·.getLsbD k) h
    simpa [hk, BitVec.getLsbD_eq_getElem (show 8 + k < 16 by omega)] using this
  ext k hk
  interval_cases k <;> simp [wordW, lowByte, hz 0, hz 1, hz 2]

/-- A word of format R is its operation field, CLR, ROW and COL (R84, R87). -/
theorem wordR_fields (h : w.getLsbD 8 = false) :
    wordR (opField w) (w.getLsbD 10) (rowOfBit (w.getLsbD 9)) (colField w) = w := by
  refine reqWord_ext (opField_wordR _ _ _ _) ?_
  have h8 : w[8] = false := h
  ext k hk
  interval_cases k <;> simp [wordR, colField, h8]

/-! ### The decoder -/

theorem opField_eq {k : Nat} (h : (opField w).toNat = k) : opField w = BitVec.ofNat 5 k := by
  rw [← h, BitVec.ofNat_toNat, BitVec.setWidth_eq]

theorem encode_of_formatN {k : Nat} (hop : (opField w).toNat = k)
    (hi : encode i = .request (wordN (BitVec.ofNat 5 k))) (h : formatN w i = .ok j) :
    encode j = .request w := by
  obtain ⟨hz, rfl⟩ := formatN_ok_iff.1 h
  rw [hi, ← opField_eq hop, wordN_opField hz]

theorem encode_of_formatW {k : Nat} (hop : (opField w).toNat = k)
    (hi : ∀ v, encode (mk v) = .request (wordW (BitVec.ofNat 5 k) v)) (h : formatW w mk = .ok j) :
    encode j = .request w := by
  obtain ⟨hz, rfl⟩ := formatW_ok_iff.1 h
  rw [hi, ← opField_eq hop, wordW_fields hz]

theorem encode_of_formatR (hop : (opField w).toNat = 2) (h : formatR w = .ok j) :
    encode j = .request w := by
  obtain ⟨hz, rfl⟩ := formatR_ok_iff.1 h
  have h2 : opField w = 2 := opField_eq hop
  rw [encode, ← h2, wordR_fields hz]

/-- A word that decodes is the word of what it decodes to (R91). -/
theorem encode_of_decodeRequest (h : decodeRequest w = .ok i) : encode i = .request w := by
  unfold decodeRequest at h
  split at h <;> rename_i hop
  · exact encode_of_formatN hop rfl h
  · exact encode_of_formatR hop h
  · exact encode_of_formatW hop (fun _ => rfl) h
  · exact encode_of_formatW hop (fun _ => rfl) h
  iterate 16 exact encode_of_formatN hop rfl h
  · cases h

theorem illegalWord_of_formatN {k : Nat} (hop : (opField w).toNat = k) (hk : k = 1 ∨ 16 ≤ k)
    (h : ∀ j, formatN w i ≠ .ok j) : IllegalWord w :=
  .inr (.inr (.inl ⟨hop ▸ hk, fun hz => h i (formatN_ok_iff.2 ⟨hz, rfl⟩)⟩))

theorem illegalWord_of_formatW {k : Nat} (hop : (opField w).toNat = k) (hk : k = 3 ∨ k = 4)
    (h : ∀ j, formatW w mk ≠ .ok j) : IllegalWord w :=
  .inr (.inr (.inr (.inl ⟨hop ▸ hk, fun hz => h _ (formatW_ok_iff.2 ⟨hz, rfl⟩)⟩)))

theorem illegalWord_of_formatR (hop : (opField w).toNat = 2) (h : ∀ j, formatR w ≠ .ok j) :
    IllegalWord w :=
  .inr (.inr (.inr (.inr ⟨hop, by
    by_contra hz
    exact h _ (formatR_ok_iff.2 ⟨eq_false_of_ne_true hz, rfl⟩)⟩)))

/-- A word that the decoder rejects is one of those R90 calls illegal. -/
theorem illegalWord_of_reject (h : ∀ i, decodeRequest w ≠ .ok i) : IllegalWord w := by
  unfold decodeRequest at h
  split at h <;> rename_i hop
  · exact illegalWord_of_formatN hop (.inl rfl) h
  · exact illegalWord_of_formatR hop h
  · exact illegalWord_of_formatW hop (.inl rfl) h
  · exact illegalWord_of_formatW hop (.inr rfl) h
  iterate 16 exact illegalWord_of_formatN hop (.inr (by decide)) h
  · have hlt : (opField w).toNat < 32 := (opField w).isLt
    have hres : (opField w).toNat = 0 ∨ 5 ≤ (opField w).toNat ∧ (opField w).toNat ≤ 15 := by
      simp only [imp_false] at *
      omega
    exact hres.imp_right .inl

end Sys2Proof.StateProofs
end

section
/-! What one step does, as a relation with one named case for each mover; it is exactly `step`. -/

namespace Sys2Proof.StateProofs

open Sys2Proof Sys2Proof.Laws Sys2Proof.Machine

/-! ### The step as a relation -/

/-- The host presents the request word `w`, and the state `u` that the word meets: the entry gone by, and the
write presented with it done (R88, R237 (c)). -/
inductive Presents (s : State) (w : ReqWord) : State → Prop
  | request {hs} (entry : s.host = .request w :: hs) : Presents s w { tickReset s with host := hs }
  | both {hw hs} (entry : s.host = .both hw w :: hs) :
    Presents s w (hostWrite hw { tickReset s with host := hs })

/-- The engine's step is not reset's: no pulse waits for the observer, and the input is not asserted. -/
structure Unreset (s : State) : Prop where
  noPulse : s.strobe = none
  noReset : s.resetIn.head? ≠ some true

/-- What one step does, by who moves: the observer (R202), reset (R260, R261), the sequencer (R23) or the host
(R53, R88, R90, R92). -/
inductive Turn (s : State) : State → Prop
  | observer {w} (pulse : s.strobe = some w) :
    Turn s { s with strobe := none, observer := s.observer.step s.cfg.obs06Moves w }
  | reset (noPulse : s.strobe = none) (asserted : s.resetIn.head? = some true) :
    Turn s (enterReset (tickReset s))
  | release (unreset : Unreset s) (held : s.inReset = true) : Turn s (releaseReset (tickReset s))
  | event {n m s1} (unreset : Unreset s) (released : s.inReset = false) (busy : s.seq = .pos n)
    (position : s.program[n]? = some m)
    (performed : perform m { tickReset s with host := hostTick s.host } = .next s1) :
    Turn s (advanceSeq n s.program.length s1)
  | idle (unreset : Unreset s) (released : s.inReset = false) (idle : s.seq = .idle)
    (entry : s.host = []) : Turn s (tickReset s)
  | quiet {hs} (unreset : Unreset s) (released : s.inReset = false) (idle : s.seq = .idle)
    (entry : s.host = .quiet :: hs) : Turn s { tickReset s with host := hs }
  | write {hw hs} (unreset : Unreset s) (released : s.inReset = false) (idle : s.seq = .idle)
    (entry : s.host = .write hw :: hs) : Turn s (hostWrite hw { tickReset s with host := hs })
  | illegal {w u} (unreset : Unreset s) (released : s.inReset = false) (idle : s.seq = .idle)
    (presented : Presents s w u) (reject : ∀ i, decodeRequest w ≠ .ok i) :
    Turn s (raiseFault codeIllegalRequest u)
  | tooLong {w u i} (unreset : Unreset s) (released : s.inReset = false) (idle : s.seq = .idle)
    (presented : Presents s w u) (decoded : decodeRequest w = .ok i) (render : isRender i = true)
    (long : u.cfg.msgCap < u.msgLen) : Turn s (raiseFault codeLengthRange u)
  | accepted {w u i} (unreset : Unreset s) (released : s.inReset = false) (idle : s.seq = .idle)
    (presented : Presents s w u) (decoded : decodeRequest w = .ok i)
    (fits : isRender i = true → u.msgLen ≤ u.cfg.msgCap) :
    Turn s (accept w (programOf u.msgLen i) (acceptLatches i u))

variable {s t u : State} {w : ReqWord}

theorem Presents.seq_eq (h : Presents s w u) : u.seq = s.seq := by
  cases h with
  | request => rfl
  | both => rw [hostWrite_seq]; rfl

/-- A request word at the port of the idle engine: illegal, a RENDER that is too long, or accepted. -/
theorem turn_of_presentWord (hu : Unreset s) (hr : s.inReset = false) (hi : s.seq = .idle)
    (hp : Presents s w u) (h : presentWord w u = .next t) : Turn s t := by
  have hidle : u.seq = .idle := hp.seq_eq.trans hi
  obtain ⟨i, hd, he⟩ | ⟨hd, rfl⟩ := presentWord_cases h
  · rw [exec_idle (encode_of_decodeRequest hd) hidle] at he
    split at he <;> rename_i hc <;> cases he
    · exact .tooLong hu hr hi hp hd hc.1 hc.2
    · exact .accepted hu hr hi hp hd fun hren => Nat.le_of_not_lt fun hlt => hc ⟨hren, hlt⟩
  · exact .illegal hu hr hi hp hd

theorem turn_of_hostTurn (hu : Unreset s) (hr : s.inReset = false) (hi : s.seq = .idle)
    (h : hostTurn (tickReset s) = .next t) : Turn s t := by
  obtain ⟨he, rfl⟩ | ⟨hs, he, rfl⟩ | ⟨hw, hs, he, rfl⟩ | ⟨w, hs, he, hp⟩ | ⟨hw, w, hs, he, hp⟩ :=
    hostTurn_cases h
  · exact .idle hu hr hi he
  · exact .quiet hu hr hi he
  · exact .write hu hr hi he
  · exact turn_of_presentWord hu hr hi (.request he) hp
  · exact turn_of_presentWord hu hr hi (.both he) hp

/-- Every step is one of the turns, in a legal configuration. -/
theorem turn_of_step (h : step s = .next t) : s.cfg.wf = true ∧ Turn s t := by
  obtain ⟨hc, ⟨w, i, hs, hd, he⟩ | ⟨w, hs, hd, ht⟩ | ⟨hs, ha, rfl⟩ | ⟨hs, hr, hin, rfl⟩ |
    ⟨n, hs, hr, hin, hn, hp⟩ | ⟨hs, hr, hin, hi, hh⟩⟩ := step_cases h
  · cases h.symm.trans (step_strobe hc hs)
    exact ⟨hc, .observer hs⟩
  · cases h.symm.trans (step_strobe hc hs)
    exact ⟨hc, .observer hs⟩
  · exact ⟨hc, .reset hs ha⟩
  · exact ⟨hc, .release ⟨hs, hr⟩ hin⟩
  · obtain ⟨m, s1, hm, hp1, rfl⟩ := performAt_next hp
    exact ⟨hc, .event ⟨hs, hr⟩ hin hn hm hp1⟩
  · exact ⟨hc, turn_of_hostTurn ⟨hs, hr⟩ hin hi hh⟩

/-- With reset not asserted the step is the engine's, the level at the input gone by. -/
theorem step_eq_engineTurn (hc : s.cfg.wf = true) (h : Unreset s) :
    step s = engineTurn (tickReset s) := by
  obtain ⟨hs, hr⟩ := h
  rcases he : s.resetIn with _ | ⟨_ | _, l⟩
  · have ht : tickReset s = s := by
      cases s
      simp_all [tickReset]
    simp [step, portTurn, hc, hs, he, ht]
  · simp [step, portTurn, hc, hs, he, tickReset]
  · simp [he] at hr

/-- In an idle engine the step is the host's turn. -/
theorem step_eq_hostTurn (hc : s.cfg.wf = true) (hu : Unreset s) (hr : s.inReset = false)
    (hi : s.seq = .idle) : step s = hostTurn (tickReset s) := by
  rw [step_eq_engineTurn hc hu]
  simp [engineTurn, tickReset, hr, hi]

theorem hostTurn_presents (h : Presents s w u) : hostTurn (tickReset s) = presentWord w u := by
  cases h with
  | request he | both he => simp [hostTurn, tickReset, he]

/-- A turn in a legal configuration is a step. -/
theorem step_of_turn (hc : s.cfg.wf = true) (h : Turn s t) : step s = .next t := by
  cases h with
  | observer hs => exact step_strobe hc hs
  | reset hs ha =>
    obtain ⟨l, hl⟩ : ∃ l, s.resetIn = true :: l := by
      rcases he : s.resetIn with _ | ⟨b, l⟩ <;> simp_all
    simp [step, portTurn, hc, hs, hl, tickReset]
  | release hu hin =>
    rw [step_eq_engineTurn hc hu]
    simp [engineTurn, tickReset, hin]
  | @event n m s1 hu hin hn hm hp =>
    rw [step_eq_engineTurn hc hu]
    have : engineTurn (tickReset s) =
        performAt s.program n { tickReset s with host := hostTick s.host } := by
      simp [engineTurn, tickReset, hin, hn, sequencerTurn]
      rfl
    rw [this, performAt, hm]
    simp [hp]
  | idle hu hr hi he | quiet hu hr hi he | write hu hr hi he =>
    rw [step_eq_hostTurn hc hu hr hi]
    simp [hostTurn, tickReset, he]
  | illegal hu hr hi hp hd =>
    rw [step_eq_hostTurn hc hu hr hi, hostTurn_presents hp, presentWord]
    split <;> simp_all
  | tooLong hu hr hi hp hd hren hl =>
    rw [step_eq_hostTurn hc hu hr hi, hostTurn_presents hp, presentWord, hd]
    simp [exec_idle (encode_of_decodeRequest hd) (hp.seq_eq.trans hi), hren, hl]
  | accepted hu hr hi hp hd hf =>
    rw [step_eq_hostTurn hc hu hr hi, hostTurn_presents hp, presentWord, hd]
    have hc' : ¬ (isRender _ = true ∧ _) := fun h => Nat.not_lt.2 (hf h.1) h.2
    exact (exec_idle (encode_of_decodeRequest hd) (hp.seq_eq.trans hi)).trans (if_neg hc')

end Sys2Proof.StateProofs
end

section
/-! What one position of an event list and one turn leave unchanged. -/

namespace Sys2Proof.StateProofs

open Sys2Proof Sys2Proof.Laws Sys2Proof.Machine

variable {s t u : State} {w : ReqWord} {m : Micro} {i : Instr}

/-! ### One position -/

/-- What one position does to the lines and the observer: it writes a line that is not EN, with the transfer
latches loaded or kept, or it moves EN, or it samples the bus word (R12, R112, R161). -/
inductive Effect (s : State) : State → Prop
  | setLine {sig lvl k v} (notEn : sig ≠ .en) (rwLow : sig = .rw → lvl = .low) :
    Effect s (setPin sig lvl { s with tKind := k, tVal := v })
  | idleEnable : Effect s (setIdleEnable .low s)
  | raise : Effect s (raiseEnable s)
  | sample : Effect s (dwell s)
  | lower {ops} : Effect s (applyLatchOps ops (lowerEnable s))

theorem perform_effect (h : perform m s = .next t) : Effect s t := by
  cases m with
  | forceLow sig =>
    cases sig with
    | en => cases h; exact .idleEnable
    | rs | rw | d => cases h; exact .setLine (by simp) (by simp)
  | phase ph x =>
    cases ph with
    | rw =>
      simp only [perform, beginTransfer] at h
      split at h <;> cases h
      exact .setLine (by simp) (by simp)
    | rs | d => cases h; exact .setLine (by simp) (by simp)
    | enh => cases h; exact .raise
    | dwell => cases h; exact .sample
    | enl => cases h; exact .lower

/-- The part of the engine that no position of an event list writes (R20, R110). -/
structure Kept (s t : State) : Prop where
  cfg : t.cfg = s.cfg
  seq : t.seq = s.seq
  opreg : t.opreg = s.opreg
  rLen : t.rLen = s.rLen
  fault : t.fault = s.fault
  msg : t.msg = s.msg
  msgLen : t.msgLen = s.msgLen
  responses : t.responses = s.responses
  inReset : t.inReset = s.inReset
  resetIn : t.resetIn = s.resetIn
  host : t.host = s.host
  drawEpoch : t.drawEpoch = s.drawEpoch

theorem perform_kept (h : perform m s = .next t) : Kept s t := by
  obtain ⟨hcfg, hseq, hop, hrl, hf, hmsg, hml, hresp, hin, hri, hh, hd, _⟩ := perform_frame h
  exact ⟨hcfg, hseq, hop, hrl, hf, hmsg, hml, hresp, hin, hri, hh, hd⟩

/-- A position adds one event to the trace, and it never drives RW high (R21, R54). -/
theorem Effect.event (h : Effect s t) : ∃ e, t.trace = s.trace ++ [e] ∧ e ≠ .set .rw .high := by
  cases h with
  | setLine _ hrw => exact ⟨_, rfl, by simpa using fun hs => by simp [hrw hs]⟩
  | idleEnable | raise => exact ⟨_, rfl, by simp⟩
  | sample => exact ⟨_, dwell_trace s, by simp⟩
  | lower => exact ⟨_, applyLatchOps_trace _ _, by simp⟩

/-- A position leaves the observer as it was, or knowing nothing (R118, R272). -/
theorem Effect.observer_cases (h : Effect s t) :
    t.observer = s.observer ∨ t.observer = Observer.lost ∨ t.observer = Observer.blinded := by
  cases h with
  | setLine => exact .inl rfl
  | lower => exact .inl (applyLatchOps_observer _ _)
  | idleEnable =>
    rw [setIdleEnable_observer]
    split <;> simp
  | raise =>
    rw [raiseEnable_observer]
    split <;> simp
  | sample =>
    unfold dwell
    split <;> simp

/-! ### The message, the program and the ports -/

/-- The event list is read from `OPREG` and `R_LEN` alone (R32). -/
theorem program_congr (ho : t.opreg = s.opreg) (hr : t.rLen = s.rLen) : t.program = s.program := by
  unfold State.program
  rw [ho, hr]

theorem memRead_congr (hc : t.cfg = s.cfg) (hm : t.msg = s.msg) (hd : t.drawEpoch = s.drawEpoch)
    (a : Nat) : t.memRead a = s.memRead a := by
  unfold State.memRead State.messageByte
  rw [hc, hm, hd]

/-- Only a `quiet` entry goes by at a busy engine (R53, R88). -/
theorem hostTick_of_not_quiet {h : List HostInput} (hq : ∀ rest, h ≠ .quiet :: rest) :
    hostTick h = h := by
  unfold hostTick
  split
  · exact absurd rfl (hq _)
  · rfl

/-- What the host's presenting a word leaves: all but the message space and the ports (R53). -/
theorem Presents.frame (h : Presents s w u) :
    u.cfg = s.cfg ∧ u.fault = s.fault ∧ u.trace = s.trace := by
  cases h with
  | request => exact ⟨rfl, rfl, rfl⟩
  | both => simp [tickReset]

/-! ### The latches a request takes -/

@[simp] theorem acceptLatches_cfg (i : Instr) (s : State) : (acceptLatches i s).cfg = s.cfg := by
  cases i <;> rfl
@[simp] theorem acceptLatches_fault (i : Instr) (s : State) :
    (acceptLatches i s).fault = s.fault := by cases i <;> rfl
@[simp] theorem acceptLatches_trace (i : Instr) (s : State) :
    (acceptLatches i s).trace = s.trace := by cases i <;> rfl

theorem render_of_isRender (h : isRender i = true) : ∃ c r col, i = .render c r col := by
  cases i with
  | render c r col => exact ⟨c, r, col, rfl⟩
  | _ => cases h

/-! ### One turn -/

/-- No turn changes the configuration (R30). -/
theorem Turn.cfg_eq (h : Turn s t) : t.cfg = s.cfg := by
  cases h with
  | observer | reset | release | idle | quiet => rfl
  | event _ _ _ _ hp => exact (advanceSeq_cfg _ _ _).trans (perform_kept hp).cfg
  | write => exact hostWrite_cfg _ _
  | illegal _ _ _ hp | tooLong _ _ _ hp => exact hp.frame.1
  | accepted _ _ _ hp => exact (acceptLatches_cfg _ _).trans hp.frame.1

/-- A turn adds `Cfg` events, an event of the list, or none: RW is never driven high (R21, R54). -/
theorem Turn.rw_notMem (h : Turn s t) (hs : .set .rw .high ∉ s.trace) :
    .set .rw .high ∉ t.trace := by
  cases h with
  | observer | idle | quiet => exact hs
  | reset => simp
  | release => simpa [tickReset, cfgEvents_eq] using hs
  | event _ _ _ _ hp =>
    obtain ⟨e, he, hne⟩ := (perform_effect hp).event
    simpa [he, tickReset, hne.symm] using hs
  | write => simpa [tickReset] using hs
  | illegal _ _ _ hp | tooLong _ _ _ hp | accepted _ _ _ hp => simpa [hp.frame.2.2] using hs

/-- A step of the busy engine performs the position at `SEQ` and moves on (R23). -/
theorem step_atEvent {n : Nat} (h : AtEvent s n) (hst : step s = .next t) :
    ∃ m u, s.program[n]? = some m ∧ perform m { s with host := hostTick s.host } = .next u ∧
      t = advanceSeq n s.program.length u := by
  have hr : Ready s n (s.program.drop n) :=
    ⟨h.config, h.noPulse, h.released, h.noReset, h.position, rfl⟩
  exact performAt_next ((step_busy hr).symm.trans hst)

end Sys2Proof.StateProofs
end

section
/-! The obligations about one step: the configuration, the trace, the faults and the busy engine. -/

namespace Sys2Proof.StateProofs

open Sys2Proof Sys2Proof.Laws Sys2Proof.Machine

/-! ### The configuration and the write-only interface -/

/-- Settles O31: no turn writes the configuration, and `step` looks at the pins first. -/
theorem configurationImmutable : Obligations.ConfigurationImmutable := by
  refine ⟨fun s t h => (turn_of_step h).2.cfg_eq, fun s h => ?_⟩
  have hwf : s.cfg.wf = false := by simp [Config.wf, PinMap.wf, h]
  simp [step, hwf]

/-- Settles O22: the one position that writes RW writes it low. -/
theorem rwNeverHigh : Obligations.RwNeverHigh :=
  fun _ _ h => (turn_of_step h).2.rw_notMem

/-! ### FAULT -/

theorem stickyFault_ne {old new : Code} (h : stickyFault old new ≠ old) :
    old = 0 ∧ stickyFault old new = new := by
  unfold stickyFault at h ⊢
  split at h
  · simp_all
  · exact absurd rfl h

/-- Settles O25: of the turns only reset and the two faults at the port write `FAULT`. -/
theorem faultIsSticky : Obligations.FaultIsSticky := by
  intro s t h hne
  cases (turn_of_step h).2 with
  | observer | release | idle | quiet => exact absurd rfl hne
  | reset hs ha => exact .inl ⟨hs, ha, rfl⟩
  | event _ _ _ _ hp =>
    exact absurd ((advanceSeq_fault _ _ _).trans (perform_kept hp).fault) hne
  | write => exact absurd (hostWrite_fault _ _) hne
  | accepted _ _ _ hp => exact absurd ((acceptLatches_fault _ _).trans hp.frame.2.1) hne
  | @illegal w u _ _ hi hp hd =>
    obtain ⟨_, hf, _⟩ := hp.frame
    rw [raiseFault_fault, hf] at hne ⊢
    obtain ⟨h0, hnew⟩ := stickyFault_ne hne
    refine .inr ⟨h0, hi, w, ?_, .inl ⟨hnew, illegalWord_of_reject hd⟩⟩
    cases hp <;> simp_all
  | @tooLong w u i _ _ hi hp hd hren hl =>
    obtain ⟨_, hf, _⟩ := hp.frame
    obtain ⟨c, r, col, rfl⟩ := render_of_isRender hren
    rw [raiseFault_fault, hf] at hne ⊢
    obtain ⟨h0, hnew⟩ := stickyFault_ne hne
    refine .inr ⟨h0, hi, w, ?_, .inr ⟨hnew, hl, c, r, col, encode_of_decodeRequest hd⟩⟩
    cases hp <;> simp_all

/-! ### The busy engine -/

/-- Settles O8: exec of a request looks at `BUSY` first, and a position writes neither `OPREG`, `R_LEN` nor the
message. -/
theorem heldOffWhileBusy : Obligations.HeldOffWhileBusy := by
  refine ⟨fun i w s he hb => exec_busy he hb, fun s t n h hst => ?_⟩
  obtain ⟨m, u, _, hp, rfl⟩ := step_atEvent h hst
  have k := perform_kept hp
  refine ⟨by simpa using k.opreg, by simpa using k.rLen, by simpa using k.msgLen,
    memRead_congr (by simpa using k.cfg) (by simpa using k.msg) (by simpa using k.drawEpoch),
    fun hq => ?_⟩
  rw [advanceSeq_host, k.host]
  exact hostTick_of_not_quiet hq

/-- Settles O9: the position at `SEQ` is performed, and `advanceSeq` looks whether it was the last. -/
theorem sequencerPerformsOneEvent : Obligations.SequencerPerformsOneEvent := by
  intro s t n h hst
  obtain ⟨m, u, hm, hp, rfl⟩ := step_atEvent h hst
  have k := perform_kept hp
  obtain ⟨e, he, _⟩ := (perform_effect hp).event
  have hn : n < s.program.length := (List.getElem?_eq_some_iff.1 hm).1
  refine ⟨⟨e, by simpa using he⟩, ?_, by simpa using k.cfg, by simpa using k.fault,
    by simpa using k.opreg, by simpa using k.rLen, by simpa using k.msg, by simpa using k.msgLen,
    by simpa [h.released] using k.inReset, by simpa using k.drawEpoch⟩
  by_cases hlast : n + 1 = s.program.length
  · exact .inr ⟨hlast, by simp [hlast], by simp [hlast, k.responses, codeOk]⟩
  · exact .inl ⟨by omega, by simp [hlast], by simp [hlast, k.responses]⟩

end Sys2Proof.StateProofs
end

section
/-! What `exec` leaves unchanged, and that nothing in the engine reads the observer. -/

namespace Sys2Proof.StateProofs

open Sys2Proof Sys2Proof.Laws Sys2Proof.Machine

variable {s t u : State} {w : ReqWord} {m : Micro} {i : Instr}

/-! ### The space of an instruction is that of its word -/

theorem space_of_encode_request (h : encode i = .request w) : i.space = .request := by
  cases i <;> simp [encode] at h <;> rfl

theorem space_of_encode_bus {b : BusWord} (h : encode i = .bus b) : i.space = .bus := by
  cases i <;> simp [encode] at h <;> rfl

theorem acceptLatches_of_not_render (h : ∀ c r col, i ≠ .render c r col) (s : State) :
    acceptLatches i s = s := by
  cases i with
  | render c r col => exact absurd rfl (h c r col)
  | _ => rfl

/-! ### What `exec` leaves unchanged -/

/-- The part of the state that no instruction writes. -/
structure ExecKept (s t : State) : Prop where
  cfg : t.cfg = s.cfg
  msg : t.msg = s.msg
  msgLen : t.msgLen = s.msgLen
  trace : t.trace = s.trace
  pins : t.pins = s.pins
  tKind : t.tKind = s.tKind
  tVal : t.tVal = s.tVal
  inReset : t.inReset = s.inReset
  resetIn : t.resetIn = s.resetIn
  host : t.host = s.host
  drawEpoch : t.drawEpoch = s.drawEpoch

theorem acceptLatches_kept (i : Instr) (s : State) :
    ExecKept s (acceptLatches i s) ∧ (acceptLatches i s).strobe = s.strobe ∧
      (acceptLatches i s).observer = s.observer := by
  cases i <;> exact ⟨⟨rfl, rfl, rfl, rfl, rfl, rfl, rfl, rfl, rfl, rfl, rfl⟩, rfl, rfl⟩

theorem exec_kept (h : exec i s = .next t) : ExecKept s t := by
  obtain ⟨w, _, rfl⟩ | ⟨w, _, ⟨_, rfl⟩ | ⟨_, _, rfl⟩ | ⟨_, _, rfl⟩⟩ := exec_cases h
  iterate 3 exact ⟨rfl, rfl, rfl, rfl, rfl, rfl, rfl, rfl, rfl, rfl, rfl⟩
  · obtain ⟨k, _, _⟩ := acceptLatches_kept i s
    exact ⟨k.cfg, k.msg, k.msgLen, k.trace, k.pins, k.tKind, k.tVal, k.inReset, k.resetIn, k.host,
      k.drawEpoch⟩

/-- A request leaves the environment (R130, R222). -/
theorem exec_request_environment (h : exec i s = .next t) (hi : i.space = .request) :
    t.strobe = s.strobe ∧ t.observer = s.observer := by
  obtain ⟨w, he, _⟩ | ⟨w, _, ⟨_, rfl⟩ | ⟨_, _, rfl⟩ | ⟨_, _, rfl⟩⟩ := exec_cases h
  · simp [space_of_encode_bus he] at hi
  · exact ⟨rfl, rfl⟩
  · exact ⟨rfl, rfl⟩
  · exact (acceptLatches_kept i s).2

/-- A request that is not RENDER is accepted, or waits at the busy engine: it raises no fault (R88, R92). -/
theorem exec_not_render (h : exec i s = .next t) (hi : i.space = .request)
    (hr : ∀ c r col, i ≠ .render c r col) : t = s ∨ ∃ w prog, t = accept w prog s := by
  cases he : encode i with
  | bus w => simp [space_of_encode_bus he] at hi
  | request w =>
    cases hb : s.busy with
    | true =>
      cases h.symm.trans (exec_busy he hb)
      exact .inl rfl
    | false =>
      have hnr : ¬ (isRender i = true ∧ s.cfg.msgCap < s.msgLen) := by
        rintro ⟨hren, _⟩
        obtain ⟨c, r, col, rfl⟩ := render_of_isRender hren
        exact hr c r col rfl
      rw [exec_idle he ((not_busy_iff s).1 hb), if_neg hnr, acceptLatches_of_not_render hr] at h
      cases h
      exact .inr ⟨_, _, rfl⟩

/-- Settles O54: `exec` answers the observer's step, the state as it is, a fault, or an acceptance. -/
theorem execFrame : Obligations.ExecFrame := by
  intro i s t h
  have k := exec_kept h
  refine ⟨⟨k.cfg, memRead_congr k.cfg k.msg k.drawEpoch, k.msgLen, k.trace, k.pins, k.tKind, k.tVal,
    k.inReset, k.resetIn, k.host, k.drawEpoch⟩, exec_request_environment h, fun hi hr => ?_,
    fun hi => ?_⟩
  · obtain rfl | ⟨w, prog, rfl⟩ := exec_not_render h hi hr <;> exact ⟨rfl, rfl, rfl, rfl, rfl, rfl⟩
  · obtain ⟨w, _, rfl⟩ | ⟨w, he, _⟩ := exec_cases h
    · rfl
    · simp [space_of_encode_request he] at hi

/-! ### The engine ignores the observer -/

theorem applyLatchOps_observerIndep (ops : List LatchOp) (s : State) (o : Observer) :
    applyLatchOps ops { s with observer := o } = { applyLatchOps ops s with observer := o } := by
  induction ops generalizing s with
  | nil => rfl
  | cons op ops ih =>
    rw [applyLatchOps_cons, applyLatchOps_cons, ← ih]
    cases op <;> rfl

theorem advanceSeq_observerIndep (n len : Nat) (s : State) (o : Observer) :
    advanceSeq n len { s with observer := o } = { advanceSeq n len s with observer := o } := by
  unfold advanceSeq
  split <;> rfl

theorem hostWrite_observerIndep (hw : HostWrite) (s : State) (o : Observer) :
    hostWrite hw { s with observer := o } = { hostWrite hw s with observer := o } := by
  cases hw <;> simp only [hostWrite] <;> split <;> rfl

theorem acceptLatches_observerIndep (i : Instr) (s : State) (o : Observer) :
    acceptLatches i { s with observer := o } = { acceptLatches i s with observer := o } := by
  cases i <;> rfl

/-- A position is performed alike whatever the observer knows (R36, R222). -/
theorem perform_observerIndep (h : perform m s = .next t) (o : Observer) :
    ∃ o', perform m { s with observer := o } = .next { t with observer := o' } := by
  cases m with
  | forceLow sig => cases sig <;> (cases h; exact ⟨_, rfl⟩)
  | phase ph x =>
    cases ph with
    | rw =>
      have hv : x.src.value? { s with observer := o } = x.src.value? s := by cases x.src <;> rfl
      simp only [perform, beginTransfer, hv] at h ⊢
      split at h <;> cases h
      exact ⟨_, rfl⟩
    | rs | d | enh => cases h; exact ⟨_, rfl⟩
    | dwell =>
      cases h
      simp only [perform, dwell]
      split <;> exact ⟨_, rfl⟩
    | enl =>
      cases h
      exact ⟨o, congrArg _ (applyLatchOps_observerIndep _ (lowerEnable s) o)⟩

theorem Presents.withObserver (h : Presents s w u) (o : Observer) :
    Presents { s with observer := o } w { u with observer := o } := by
  cases h with
  | request he => exact .request he
  | both he =>
    rw [← hostWrite_observerIndep]
    exact .both he

/-- Whatever the observer knows, the same mover has its turn and does the same to the engine. -/
theorem Turn.withObserver (h : Turn s t) (o : Observer) :
    ∃ o', Turn { s with observer := o } { t with observer := o' } := by
  have hun : Unreset s → Unreset { s with observer := o } := fun hu => ⟨hu.noPulse, hu.noReset⟩
  cases h with
  | observer hs => exact ⟨_, .observer hs⟩
  | reset hs ha => exact ⟨_, .reset (s := { s with observer := o }) hs ha⟩
  | release hu hin => exact ⟨o, .release (hun hu) hin⟩
  | event hu hr hb hm hp =>
    obtain ⟨o', hp'⟩ := perform_observerIndep hp o
    refine ⟨o', ?_⟩
    rw [← advanceSeq_observerIndep]
    exact .event (s := { s with observer := o }) (hun hu) hr hb hm hp'
  | idle hu hr hi he => exact ⟨o, .idle (hun hu) hr hi he⟩
  | quiet hu hr hi he => exact ⟨o, .quiet (hun hu) hr hi he⟩
  | write hu hr hi he =>
    refine ⟨o, ?_⟩
    rw [← hostWrite_observerIndep]
    exact .write (hun hu) hr hi he
  | illegal hu hr hi hp hd => exact ⟨o, .illegal (hun hu) hr hi (hp.withObserver o) hd⟩
  | tooLong hu hr hi hp hd hren hl =>
    exact ⟨o, .tooLong (hun hu) hr hi (hp.withObserver o) hd hren hl⟩
  | accepted hu hr hi hp hd hf =>
    refine ⟨o, ?_⟩
    have ha := Turn.accepted (hun hu) hr hi (hp.withObserver o) hd hf
    rwa [acceptLatches_observerIndep] at ha

/-- Settles O53: the same turn, and a turn in a legal configuration is a step. -/
theorem engineIgnoresObserver : Obligations.EngineIgnoresObserver := by
  intro s t o h
  obtain ⟨hc, ht⟩ := turn_of_step h
  obtain ⟨o', ht'⟩ := ht.withObserver o
  exact ⟨o', step_of_turn hc ht'⟩

end Sys2Proof.StateProofs
end

section
/-! The invariant: what each mover does to the parts of it. -/

namespace Sys2Proof.StateProofs

open Sys2Proof Sys2Proof.Laws Sys2Proof.Machine

variable {s t u : State} {w : ReqWord} {m : Micro} {i : Instr}

/-! ### The write-only lines -/

theorem bit?_eq_some_false {l : Latch} {b : Bool} (h : l.bit? = some b) (hl : l ≠ .driven .high) :
    b = false := by
  cases l with
  | undef => cases h
  | driven v =>
    cases v with
    | low => cases h; rfl
    | high => exact absurd rfl hl

/-- Bit 8 of the sampled word is the level of RW (R80). -/
theorem busWord_rw {p : PinLatches} {b : BusWord} (h : p.busWord? = some b)
    (hrw : p.rw ≠ .driven .high) : b.getLsbD 8 = false := by
  simp only [PinLatches.busWord?, Option.bind_eq_bind, Option.bind_eq_some_iff, Option.pure_def] at h
  obtain ⟨rs, _, rw, hb, d7, _, d6, _, d5, _, d4, _, d3, _, d2, _, d1, _, d0, _, he⟩ := h
  cases he
  obtain rfl := bit?_eq_some_false hb hrw
  show (BitVec.ofBool rs ++ 0#1 ++ BitVec.ofBool d7 ++ BitVec.ofBool d6 ++ BitVec.ofBool d5 ++
    BitVec.ofBool d4 ++ BitVec.ofBool d3 ++ BitVec.ofBool d2 ++ BitVec.ofBool d1 ++
    BitVec.ofBool d0).getLsbD 8 = false
  simp only [BitVec.getLsbD_append]
  simp

/-- RW stays low or undefined, and so does bit 8 of a bus word that waits for the observer (R21, R54, R81). -/
structure WriteOnly (s : State) : Prop where
  line : s.pins.rw ≠ .driven .high
  word : ∀ b, s.strobe = some b → b.getLsbD 8 = false

theorem Effect.writeOnly (h : Effect s t) (ok : WriteOnly s) : WriteOnly t := by
  obtain ⟨hl, hw⟩ := ok
  cases h with
  | @setLine sig lvl k v _ hlow =>
    refine ⟨?_, hw⟩
    by_cases hsig : sig = .rw
    · subst hsig
      simp [hlow rfl]
    · simpa [hsig] using hl
  | idleEnable | raise => exact ⟨by simpa using hl, hw⟩
  | lower => exact ⟨by simpa using hl, by simpa using hw⟩
  | sample =>
    refine ⟨by simpa using hl, fun b hb => ?_⟩
    unfold dwell at hb
    split at hb
    · rename_i b' hb'
      cases hb
      exact busWord_rw hb' hl
    · exact hw b hb

/-! ### The observer -/

/-- Nothing is known of the controller before a complete `INIT` trace, `offgrid` apart (R201, R203). -/
def Unsure (o : Observer) : Prop := o.phase ≠ .ready → o.display = o.display.forget

theorem unsure_lost : Unsure Observer.lost := fun _ => rfl

theorem unsure_blinded : Unsure Observer.blinded := fun _ => rfl

theorem unsure_take (o : Observer) (b : BusWord) (f : Display → Display) : Unsure (o.take b f) := by
  simp only [Observer.take]
  split
  · exact fun _ => rfl
  · split
    · exact fun h => absurd rfl h
    · exact fun _ => rfl
  · exact fun h => absurd rfl h

theorem take_phase_ne_blind (o : Observer) (b : BusWord) (f : Display → Display) :
    (o.take b f).phase ≠ .blind := by
  simp only [Observer.take]
  split
  · simp
  · split <;> simp
  · simp

theorem unsure_step (moves : Bool) (o : Observer) (b : BusWord) : Unsure (o.step moves b) := by
  unfold Observer.step
  split
  · exact unsure_take _ _ _
  · exact unsure_lost

/-- The observer is blind for one pulse only (R118). -/
theorem step_phase_ne_blind (moves : Bool) (o : Observer) (b : BusWord) :
    (o.step moves b).phase ≠ .blind := by
  unfold Observer.step
  split
  · exact take_phase_ne_blind _ _ _
  · simp [Observer.lost]

theorem Effect.unsure (h : Effect s t) (ok : Unsure s.observer) : Unsure t.observer := by
  obtain ho | ho | ho := h.observer_cases <;> rw [ho]
  · exact ok
  · exact unsure_lost
  · exact unsure_blinded

/-! ### The invariant under what the outside does -/

theorem stickyFault_ne_three {old new : Code} (ho : old ≠ 3) (hn : new ≠ 3) :
    stickyFault old new ≠ 3 := by
  unfold stickyFault
  split
  · exact hn
  · exact ho

theorem three_notMem_append {rs : List Code} {c : Code} (h : 3 ∉ rs) (hc : c ≠ 3) :
    3 ∉ rs ++ [c] := fun hm =>
  (List.mem_append.1 hm).elim h fun h1 => hc (List.mem_singleton.1 h1).symm

/-- The invariant says nothing of the reset input and of what the host will present. -/
theorem inv_ports (h : Inv s) (rs : List Bool) (hs : List HostInput) :
    Inv { s with resetIn := rs, host := hs } :=
  ⟨h.config, h.memory, h.lengths, h.codes, h.writeOnly, h.unknown, h.idle, fun n hn =>
    let ⟨p, hp⟩ := h.busy n hn
    ⟨p, hp.released, hp.onList, hp.pulses, hp.range, hp.enable, hp.strobe, hp.blind⟩⟩

theorem inv_raiseFault (h : Inv s) (hi : s.seq = .idle) {code : Code} (hc : code ≠ 3) :
    Inv (raiseFault code s) :=
  ⟨h.config, h.memory, h.lengths,
    ⟨stickyFault_ne_three h.codes.1 hc, three_notMem_append h.codes.2 hc⟩, h.writeOnly, h.unknown,
    h.idle, fun n hn => by simp [hi] at hn⟩

theorem hostWrite_msgLen_lt (hw : HostWrite) (h : s.msgLen < 2 ^ s.cfg.lenW) :
    (hostWrite hw s).msgLen < 2 ^ s.cfg.lenW := by
  cases hw <;> simp only [hostWrite] <;> split <;> assumption

/-- A host write at the idle engine (R53). -/
theorem inv_hostWrite (h : Inv s) (hi : s.seq = .idle) (hw : HostWrite) : Inv (hostWrite hw s) where
  config := by simpa using h.config
  memory := by simpa using hostWrite_wf hw h.memory
  lengths := by simpa using ⟨hostWrite_msgLen_lt hw h.lengths.1, h.lengths.2⟩
  codes := by simpa using h.codes
  writeOnly := by simpa using h.writeOnly
  unknown := by simpa using h.unknown
  idle := by simpa using h.idle
  busy := by simp [hi]

theorem Presents.inv (hp : Presents s w u) (h : Inv s) (hi : s.seq = .idle) : Inv u := by
  cases hp with
  | request => exact inv_ports h _ _
  | both => exact inv_hostWrite (s := { tickReset s with host := _ }) (inv_ports h _ _) hi _

theorem Presents.inReset_eq (h : Presents s w u) : u.inReset = s.inReset := by
  cases h with
  | request => rfl
  | both => exact hostWrite_inReset _ _

/-! ### The invariant at acceptance -/

/-- The event list that acceptance starts is the one the sequencer reads from `OPREG` and `R_LEN`. -/
theorem programOf_acceptLatches (i : Instr) (s : State) :
    programOf (acceptLatches i s).rLen i = programOf s.msgLen i := by
  cases i <;> rfl

theorem acceptLatches_rLen_le (h : Inv s) (hf : isRender i = true → s.msgLen ≤ s.cfg.msgCap) :
    (acceptLatches i s).rLen ≤ s.cfg.msgCap := by
  cases i with
  | render c r col => exact hf rfl
  | _ => exact h.lengths.2

theorem accept_program (hd : decodeRequest w = .ok i) (prog : List Micro) (s : State) :
    (accept w prog s).program = programOf s.rLen i := by
  simp [State.program, hd]

/-- An accepted request is at the first position of a list that is whole and in range (R23, R34, R118). -/
theorem underway_accept (h : Inv s) (hi : s.seq = .idle) (hr : s.inReset = false)
    (hd : decodeRequest w = .ok i) {n : Nat}
    (hn : (accept w (programOf s.msgLen i) (acceptLatches i s)).seq = .pos n) :
    Underway (accept w (programOf s.msgLen i) (acceptLatches i s)) n .down := by
  obtain ⟨hen, hst, hbl⟩ := h.idle hi
  obtain ⟨k, hks, hko⟩ := acceptLatches_kept i s
  have hprog := accept_program hd (programOf s.msgLen i) (acceptLatches i s)
  rw [accept_seq] at hn
  split at hn <;> cases hn
  rename_i hne
  constructor
  · simpa [k.inReset] using hr
  · rw [hprog, programOf_acceptLatches]
    exact List.length_pos_of_ne_nil (by simpa using hne)
  · rw [hprog]
    exact pulsesWhole_program _ _
  · rw [hprog]
    exact staysInRange_program _ _ _
  · simpa [k.pins] using hen
  · simp [hks, hst]
  · simpa [hko] using fun hb => absurd hb hbl

theorem inv_accept (h : Inv s) (hi : s.seq = .idle) (hr : s.inReset = false)
    (hd : decodeRequest w = .ok i) (hf : isRender i = true → s.msgLen ≤ s.cfg.msgCap) :
    Inv (accept w (programOf s.msgLen i) (acceptLatches i s)) := by
  obtain ⟨k, hks, hko⟩ := acceptLatches_kept i s
  have hresp : (acceptLatches i s).responses = s.responses := by cases i <;> rfl
  constructor
  · simpa using h.config
  · simpa [k.msg] using h.memory
  · simpa [k.msgLen] using ⟨h.lengths.1, acceptLatches_rLen_le h hf⟩
  · simpa [hresp] using h.codes
  · simpa [k.pins, hks] using h.writeOnly
  · simpa [hko] using h.unknown
  · intro _
    simpa [k.pins, hks, hko] using h.idle hi
  · exact fun n hn => ⟨_, underway_accept h hi hr hd hn⟩

/-! ### The invariant under the sequencer and the observer -/

theorem pulseOk_of_underway {n : Nat} {p : Pulse} (h : Underway s n p) : PulseOk s p :=
  ⟨h.enable, h.strobe, h.blind⟩

/-- One position performed leaves the pulse and the rest of the list as the next position needs them. -/
theorem underway_perform {n : Nat} {p : Pulse} (h : Underway s n p) (hs : s.strobe = none)
    (hm : s.program[n]? = some m) (hp : perform m s = .next t) :
    PulseOk t (p.after m) ∧ pulsesWhole (p.after m) (s.program.drop (n + 1)) ∧
      staysInRange s.rLen (t.cnt.toNat, t.idx) (s.program.drop (n + 1)) := by
  obtain ⟨hlt, rfl⟩ := List.getElem?_eq_some_iff.1 hm
  have hw := h.pulses
  have hr := h.range
  rw [List.drop_eq_getElem_cons hlt] at hw hr
  exact ⟨perform_pulse hp (pulseOk_of_underway h) hs hw, hw.2.2, perform_range hp hr⟩

/-- After the last position EN is low, no bus word waits and the observer is not blind (R118). -/
theorem atRest_of_pulseOk (h : PulseOk s .down) :
    s.pins.en ≠ .driven .high ∧ s.strobe = none ∧ s.observer.phase ≠ .blind := by
  obtain ⟨he, hs, hb⟩ := h
  have hnone : s.strobe = none := by
    by_contra hne
    cases hs (Option.isSome_iff_ne_none.2 hne)
  exact ⟨by simpa using he, hnone, fun hx => by simpa [hnone] using hb hx⟩

theorem inv_event {n : Nat} (h : Inv s) (hn : s.seq = .pos n) (hs : s.strobe = none)
    (hm : s.program[n]? = some m) (hp : perform m s = .next t) :
    Inv (advanceSeq n s.program.length t) := by
  obtain ⟨p, hu⟩ := h.busy n hn
  obtain ⟨hpulse, hwhole, hrange⟩ := underway_perform hu hs hm hp
  have k := perform_kept hp
  have heff := perform_effect hp
  obtain ⟨hrw, hword⟩ := heff.writeOnly ⟨h.writeOnly.1, h.writeOnly.2⟩
  have hlt : n < s.program.length := (List.getElem?_eq_some_iff.1 hm).1
  have hprog : (advanceSeq n s.program.length t).program = s.program :=
    program_congr (by simpa using k.opreg) (by simpa using k.rLen)
  constructor
  · simpa [k.cfg] using h.config
  · simpa [k.cfg, k.msg] using h.memory
  · simpa [k.cfg, k.msgLen, k.rLen] using h.lengths
  · refine ⟨by simpa [k.fault] using h.codes.1, ?_⟩
    rw [advanceSeq_responses, k.responses]
    split
    · exact three_notMem_append h.codes.2 (by decide)
    · exact h.codes.2
  · simpa using ⟨hrw, hword⟩
  · rw [advanceSeq_observer]
    exact heff.unsure h.unknown
  · intro hidle
    rw [advanceSeq_seq] at hidle
    split at hidle
    case isFalse => cases hidle
    case isTrue hlast =>
      have hdown : p.after m = .down := by
        rw [List.drop_eq_nil_of_le (by omega)] at hwhole
        exact hwhole
      rw [hdown] at hpulse
      simpa using atRest_of_pulseOk hpulse
  · intro n' hn'
    rw [advanceSeq_seq] at hn'
    split at hn' <;> cases hn'
    refine ⟨p.after m, by simpa [k.inReset] using hu.released, ?_, ?_, ?_, ?_, ?_, ?_⟩
    · rw [hprog]
      omega
    · rwa [hprog]
    · rw [hprog]
      simpa [k.rLen] using hrange
    · simpa using hpulse.enable
    · simpa using hpulse.strobe
    · simpa using hpulse.blind

/-- The observer's step ends what the pulse asks of the observer (R202). -/
theorem inv_observer {b : BusWord} (h : Inv s) (hs : s.strobe = some b) (moves : Bool) :
    Inv { s with strobe := none, observer := s.observer.step moves b } where
  config := h.config
  memory := h.memory
  lengths := h.lengths
  codes := h.codes
  writeOnly := ⟨h.writeOnly.1, fun _ hw => by cases hw⟩
  unknown := unsure_step moves s.observer b
  idle := fun hi => by simpa [hs] using (h.idle hi).2.1
  busy := fun n hn =>
    let ⟨p, hu⟩ := h.busy n hn
    ⟨p, hu.released, hu.onList, hu.pulses, hu.range, hu.enable, fun hx => (by cases hx),
      fun hb => absurd hb (step_phase_ne_blind moves s.observer b)⟩

/-! ### The invariant under reset -/

/-- The observer is blind only while EN is high (R118). -/
theorem enable_of_blind (h : Inv s) (hb : s.observer.phase = .blind) : s.pins.en = .driven .high := by
  cases hseq : s.seq with
  | idle => exact absurd hb (h.idle hseq).2.2
  | pos n =>
    obtain ⟨p, hu⟩ := h.busy n hseq
    refine hu.enable.2 ?_
    obtain rfl | hst := hu.blind hb
    · decide
    · rw [hu.strobe hst]
      decide

theorem inv_resetWith {c : Config} (hc : c.wf = true) : Inv (State.resetWith c) where
  config := hc
  memory := reset_memory_wf c
  lengths := ⟨Nat.two_pow_pos _, Nat.zero_le _⟩
  codes := ⟨show (0 : Code) ≠ 3 by decide, by simp [State.resetWith]⟩
  writeOnly := ⟨by simp [State.resetWith, PinLatches.undefined], by simp [State.resetWith]⟩
  unknown := fun _ => rfl
  idle := fun _ => ⟨by simp [State.resetWith, PinLatches.undefined], rfl,
    by simp [State.resetWith, Observer.initial]⟩
  busy := fun n hn => by cases hn

theorem inv_enterReset (h : Inv s) : Inv (enterReset s) := by
  have hr := inv_resetWith h.config
  refine ⟨h.config, hr.memory, hr.lengths, hr.codes, hr.writeOnly, ?_, fun _ => ⟨(hr.idle rfl).1, rfl, ?_⟩,
    fun n hn => by cases hn⟩
  · rw [enterReset_observer]
    split
    · exact unsure_lost
    · exact h.unknown
  · rw [enterReset_observer]
    split
    · simp [Observer.lost]
    · rename_i hen
      exact fun hb => hen (enable_of_blind h hb)

/-- A machine held in reset is idle (R260). -/
theorem idle_of_inReset (h : Inv s) (hin : s.inReset = true) : s.seq = .idle := by
  cases hseq : s.seq with
  | idle => rfl
  | pos n =>
    obtain ⟨p, hu⟩ := h.busy n hseq
    exact absurd (hin.symm.trans hu.released) (by decide)

theorem inv_releaseReset (h : Inv s) (hin : s.inReset = true) : Inv (releaseReset s) :=
  ⟨h.config, h.memory, h.lengths, h.codes, h.writeOnly, h.unknown, h.idle, fun n hn => by
    simp [idle_of_inReset h hin] at hn⟩

/-! ### Every turn -/

theorem Turn.inv (ht : Turn s t) (h : Inv s) : Inv t := by
  have hports := inv_ports h s.resetIn.tail
  cases ht with
  | observer hs => exact inv_observer h hs _
  | reset => exact inv_enterReset (hports s.host)
  | release _ hin => exact inv_releaseReset (hports s.host) hin
  | event hu _ hb hm hp =>
    exact inv_event (s := { tickReset s with host := hostTick s.host }) (hports _) hb hu.noPulse hm hp
  | idle => exact hports s.host
  | quiet => exact hports _
  | write _ _ hi => exact inv_hostWrite (hports _) hi _
  | illegal _ _ hi hp => exact inv_raiseFault (hp.inv h hi) (hp.seq_eq.trans hi) (by decide)
  | tooLong _ _ hi hp => exact inv_raiseFault (hp.inv h hi) (hp.seq_eq.trans hi) (by decide)
  | accepted _ hr hi hp hd hf =>
    exact inv_accept (hp.inv h hi) (hp.seq_eq.trans hi) (hp.inReset_eq.trans hr) hd hf

/-- Settles O56: every mover's turn keeps the invariant. -/
theorem invKept : Obligations.InvKept := fun _ _ h hst => (turn_of_step hst).2.inv h

/-- Settles O55: the reset values, in any legal configuration. -/
theorem invAtReset : Obligations.InvAtReset :=
  ⟨fun _ hc => inv_resetWith hc, inv_resetWith (by decide)⟩

end Sys2Proof.StateProofs
end

section
/-! Progress of a busy engine, and that a started operation ends. -/

namespace Sys2Proof.StateProofs

open Sys2Proof Sys2Proof.Laws Sys2Proof.Machine

variable {s t : State} {m : Micro}

/-- A position whose message read is in range does not stop (R52, R116). -/
theorem perform_of_inRange {ms : List Micro} {g : Nat × Nat} {rLen : Nat} (hg : g.2 = s.idx)
    (hr : staysInRange rLen g (m :: ms)) (hcap : rLen ≤ s.cfg.msgCap) :
    ∃ t, perform m s = .next t := by
  by_contra hstop
  obtain ⟨x, rfl, hx, hidx, _⟩ := perform_stops fun t ht => hstop ⟨t, ht⟩
  have : g.2 < rLen := hr.1 hx
  omega

/-- The steps a busy engine has still to make at most: two for each position to come, one of them the
observer's, and one if a bus word waits. -/
def stepsLeft (s : State) : Nat :=
  match s.seq with
  | .idle => 0
  | .pos n => 2 * (s.program.length - n) + if s.strobe = none then 0 else 1

theorem stepsLeft_idle (h : s.seq = .idle) : stepsLeft s = 0 := by simp [stepsLeft, h]

theorem stepsLeft_pos {n : Nat} (h : s.seq = .pos n) :
    stepsLeft s = 2 * (s.program.length - n) + if s.strobe = none then 0 else 1 := by
  simp [stepsLeft, h]

theorem stepsLeft_le (s : State) : stepsLeft s ≤ 2 * s.program.length + 1 := by
  unfold stepsLeft
  split
  · omega
  · split <;> omega

/-- The observer's step takes the waiting bus word and leaves the position. -/
theorem stepsLeft_observer {n : Nat} (hn : s.seq = .pos n) {b : BusWord} (hs : s.strobe = some b)
    (o : Observer) : stepsLeft { s with strobe := none, observer := o } < stepsLeft s := by
  rw [stepsLeft_pos hn, stepsLeft_pos (s := { s with strobe := none, observer := o }) hn, hs,
    program_congr (t := { s with strobe := none, observer := o }) (s := s) rfl rfl]
  simp

/-- The sequencer's step moves to the next position, or to the idle engine. -/
theorem stepsLeft_advanceSeq {n : Nat} (hn : s.seq = .pos n) (hlt : n < s.program.length)
    (hp : (advanceSeq n s.program.length t).program = s.program) :
    stepsLeft (advanceSeq n s.program.length t) < stepsLeft s := by
  rw [stepsLeft_pos hn]
  by_cases hlast : n + 1 = s.program.length
  · rw [stepsLeft_idle (by simp [hlast])]
    omega
  · rw [stepsLeft_pos (n := n + 1) (by simp [hlast]), hp]
    split <;> omega

/-- A busy engine that meets the invariant and no reset has a turn, the observer's or the sequencer's, that brings
it nearer to its end (R116, R230). -/
theorem turn_of_busy {n : Nat} (h : Inv s) (hn : s.seq = .pos n) (hr : s.resetIn = []) :
    ∃ t, Turn s t ∧ t.resetIn = [] ∧ stepsLeft t < stepsLeft s := by
  obtain ⟨p, hp⟩ := h.busy n hn
  cases hs : s.strobe with
  | some b => exact ⟨_, .observer hs, hr, stepsLeft_observer hn hs _⟩
  | none =>
    have hlt := hp.onList
    have hrange := hp.range
    rw [List.drop_eq_getElem_cons hlt] at hrange
    obtain ⟨t, ht⟩ := perform_of_inRange (s := { tickReset s with host := hostTick s.host })
      rfl hrange h.lengths.2
    have k := perform_kept ht
    refine ⟨_, .event ⟨hs, by simp [hr]⟩ hp.released hn (List.getElem?_eq_getElem hlt) ht, ?_,
      stepsLeft_advanceSeq hn hlt (program_congr ?_ ?_)⟩
    · simp [k.resetIn, tickReset, hr]
    · exact (advanceSeq_opreg _ _ _).trans k.opreg
    · exact (advanceSeq_rLen _ _ _).trans k.rLen

theorem run_to_idle : ∀ (d : Nat) (s : State), stepsLeft s ≤ d → Inv s → s.resetIn = [] →
    ∃ k u, k ≤ d ∧ run k s = .next u ∧ u.seq = .idle
  | d, s, hd, h, hr => by
    cases hn : s.seq with
    | idle => exact ⟨0, s, Nat.zero_le d, rfl, hn⟩
    | pos n =>
      obtain ⟨t, ht, htr, hlt⟩ := turn_of_busy h hn hr
      cases d with
      | zero => omega
      | succ d =>
        obtain ⟨k, u, hk, hrun, hu⟩ := run_to_idle d t (by omega) (ht.inv h) htr
        exact ⟨k + 1, u, by omega, (run_step (step_of_turn h.config ht)).trans hrun, hu⟩

/-- Settles O58: every turn of a busy engine lowers `stepsLeft`. -/
theorem startedOperationFinishes : Obligations.StartedOperationFinishes :=
  fun s h hr => run_to_idle _ s (stepsLeft_le s) h hr

end Sys2Proof.StateProofs
end

section
/-! The named phases of INIT and of RENDER against the rules' transfers. -/

namespace Sys2Proof.StateProofs

open Sys2Proof Sys2Proof.Laws Sys2Proof.Machine

/-! ### INIT -/

/-- Settles O18: the ten phases of R168, one after the other. -/
theorem initPhasesAgree : Obligations.InitPhasesAgree := fun _ => rfl

/-! ### RENDER -/

/-- The transfers of the message phase with its row jump (R176, R177). -/
def messageTransfers (msg : List Byte) : List Transfer :=
  (msg.take (WRAP_LIMIT + 1)).map Transfer.d
    ++ ((if WRAP_LIMIT + 1 < msg.length then [Transfer.c ROW1_ORIGIN] else [])
    ++ (msg.drop (WRAP_LIMIT + 1)).map Transfer.d)

/-- The transfers of the clear phase (R172). -/
def clearTransfers (row : Row) : List Transfer :=
  [Transfer.c (rowOrigin row)] ++ ([Transfer.c ROW0_ORIGIN]
    ++ (List.replicate CLEAR_COUNT [Transfer.d SPACE, Transfer.c ADVANCE_OP]).flatten)

theorem renderTransfers_eq (clr : Bool) (row : Row) (col : StartCol) (msg : List Byte) :
    renderTransfers clr row col msg = (if clr then clearTransfers row else [])
      ++ ([Transfer.c (rowOrigin row)] ++ (List.replicate col.toNat (Transfer.c ADVANCE_OP)
      ++ messageTransfers msg)) := by
  simp [renderTransfers, clearTransfers, messageTransfers]

/-- From the phase and the latches `a` the machine sends `ts` and is then at `b`. -/
def Emits (o : RenderOperands) (a : Option RenderPhase × RenderRegs) (ts : List Transfer)
    (b : Option RenderPhase × RenderRegs) : Prop :=
  ∀ fuel, renderPhaseRun o (fuel + ts.length) a.1 a.2 = ts ++ renderPhaseRun o fuel b.1 b.2

section Emits

variable {o : RenderOperands} {a b c : Option RenderPhase × RenderRegs} {ts us : List Transfer}
  {g : RenderRegs}

theorem emits_nil (a : Option RenderPhase × RenderRegs) : Emits o a [] a := fun _ => rfl

theorem Emits.append (h : Emits o a ts b) (h' : Emits o b us c) : Emits o a (ts ++ us) c := by
  intro fuel
  rw [List.length_append, Nat.add_comm ts.length, ← Nat.add_assoc, h, h', List.append_assoc]

/-- One phase sends its transfer. -/
theorem emits_phase {p : RenderPhase} {t : Transfer} (h : p.transfer o g = some t) :
    Emits o (some p, g) [t] (p.next o g) := by
  intro fuel
  simp [renderPhaseRun, h]

/-- Once the machine is idle, any fuel that was enough gives the same transfers. -/
theorem Emits.run_eq (h : Emits o a ts (none, g)) {fuel : Nat} (hf : ts.length ≤ fuel) :
    renderPhaseRun o fuel a.1 a.2 = ts := by
  obtain ⟨extra, rfl⟩ := Nat.exists_eq_add_of_le' hf
  rw [h extra]
  cases extra <;> simp [renderPhaseRun]

/-- The clear phase's loop from `CNT`, `left` blanks to go. -/
theorem emits_blanks : ∀ (left : Nat) (g : RenderRegs), 0 < left → g.cnt + left = CLEAR_COUNT →
    Emits o (some .cblank, g)
      (List.replicate left [Transfer.d SPACE, Transfer.c ADVANCE_OP]).flatten
      (some .sel, { g with cnt := CLEAR_COUNT })
  | left + 1, g, _, hc => by
    have hpair : Emits o (some .cblank, g) ([.d SPACE] ++ [.c ADVANCE_OP])
        (RenderPhase.cadv.next o g) :=
      (emits_phase (p := .cblank) rfl).append (emits_phase (p := .cadv) rfl)
    cases left with
    | zero =>
      have hlast : g.cnt + 1 = CLEAR_COUNT := hc
      simpa [RenderPhase.next, hlast] using hpair
    | succ left =>
      have hmore : g.cnt + 1 ≠ CLEAR_COUNT := by omega
      simp only [RenderPhase.next, if_neg hmore] at hpair
      exact hpair.append (emits_blanks (left + 1) { g with cnt := g.cnt + 1 } (by omega)
        (by simp only; omega))

/-- The advance phase from `CNT`, `left` advances to go. -/
theorem emits_advances : ∀ (left : Nat) (g : RenderRegs), g.cnt + left = o.startColumn →
    Emits o (enterAdvance o g) (List.replicate left (.c ADVANCE_OP))
      (enterMessage o { g with cnt := o.startColumn, idx := 0 },
        { g with cnt := o.startColumn, idx := 0 })
  | 0, g, hc => by
    have hcnt : g.cnt = o.startColumn := hc
    have hdone : enterAdvance o g = (enterMessage o { g with cnt := o.startColumn, idx := 0 },
        { g with cnt := o.startColumn, idx := 0 }) := by
      rw [enterAdvance, if_pos hcnt, ← hcnt]
    rw [hdone]
    exact emits_nil _
  | left + 1, g, hc => by
    have hmore : enterAdvance o g = (some .adv, g) := if_neg (by omega)
    rw [hmore]
    exact (emits_phase (p := .adv) rfl).append
      (emits_advances left { g with cnt := g.cnt + 1 } (by simp only; omega))

/-- Characters from `IDX` on, up to the row jump or to the end of the message. -/
theorem emits_chars : ∀ (k : Nat) (g : RenderRegs), g.idx + k ≤ o.message.length →
    (g.dropped = true ∨ g.idx + k ≤ WRAP_LIMIT + 1) →
    Emits o (enterMessage o g, g) (((o.message.drop g.idx).take k).map .d)
      (enterMessage o { g with idx := g.idx + k }, { g with idx := g.idx + k })
  | 0, g, _, _ => by simpa using emits_nil _
  | k + 1, g, hk, hd => by
    have hlt : g.idx < o.message.length := by omega
    have hchar : enterMessage o g = some .char := by
      have : ¬ (WRAP_LIMIT < g.idx ∧ g.dropped = false) := by
        rintro ⟨h1, h2⟩
        simp [h2] at hd
        omega
      simp [enterMessage, hlt.ne, this]
    have hsent : RenderPhase.char.transfer o g = some (.d o.message[g.idx]) := by
      simp [RenderPhase.transfer, hlt]
    have hrest := emits_chars k { g with idx := g.idx + 1 } (by simp only; omega)
      (hd.imp_right fun h => by simp only; omega)
    simp only [Nat.add_assoc, Nat.add_comm 1 k] at hrest
    rw [hchar, List.drop_eq_getElem_cons hlt, List.take_succ_cons, List.map_cons]
    exact (emits_phase hsent).append hrest

/-- The rest of the message with no row jump to come, to `IDLE` (R183). -/
theorem emits_rest (g : RenderRegs) (hi : g.idx ≤ o.message.length)
    (hd : g.dropped = true ∨ o.message.length ≤ WRAP_LIMIT + 1) :
    Emits o (enterMessage o g, g) ((o.message.drop g.idx).map .d)
      (none, { g with idx := o.message.length }) := by
  obtain ⟨k, hk⟩ := Nat.exists_eq_add_of_le hi
  have hchars := emits_chars k g hk.ge (hk ▸ hd)
  have hend : enterMessage o { g with idx := o.message.length } = none := if_pos rfl
  rwa [← hk, hend, List.take_of_length_le (by simp [hk])] at hchars

/-- The message phase with its row jump, if the message is that long (R177). -/
theorem emits_message (n : Nat) :
    ∃ g, Emits o (enterMessage o ⟨n, 0, false⟩, ⟨n, 0, false⟩)
      (messageTransfers o.message) (none, g) := by
  by_cases hlong : WRAP_LIMIT + 1 < o.message.length
  · have hhead := emits_chars (o := o) (WRAP_LIMIT + 1) ⟨n, 0, false⟩ (by simp only; omega)
      (.inr (by simp only; omega))
    have hjump : enterMessage o ⟨n, WRAP_LIMIT + 1, false⟩ = some .jump := by
      simp [enterMessage, hlong.ne]
    have hchar : enterMessage o ⟨n, WRAP_LIMIT + 1, true⟩ = some .char := by
      simp [enterMessage, hlong.ne]
    have hrest := emits_rest (o := o) ⟨n, WRAP_LIMIT + 1, true⟩ hlong.le (.inl rfl)
    rw [hchar] at hrest
    simp only [Nat.zero_add, List.drop_zero, hjump] at hhead
    have hsent := emits_phase (o := o) (g := ⟨n, WRAP_LIMIT + 1, false⟩) (p := .jump) rfl
    rw [messageTransfers, if_pos hlong]
    exact ⟨_, hhead.append (hsent.append hrest)⟩
  · have hall := emits_rest (o := o) ⟨n, 0, false⟩ (Nat.zero_le _) (.inr (Nat.le_of_not_lt hlong))
    rw [messageTransfers, if_neg hlong, List.take_of_length_le (Nat.le_of_not_lt hlong),
      List.drop_of_length_le (Nat.le_of_not_lt hlong)]
    exact ⟨_, by simpa using hall⟩

/-- From the reselect phase to `IDLE` (R174, R175). -/
theorem emits_reselect (n : Nat) :
    ∃ g, Emits o (some .sel, ⟨n, 0, false⟩)
      ([Transfer.c (rowOrigin o.row)] ++ (List.replicate o.startColumn (Transfer.c ADVANCE_OP)
        ++ messageTransfers o.message)) (none, g) := by
  obtain ⟨g, hmsg⟩ := emits_message (o := o) o.startColumn
  have hadv := emits_advances (o := o) o.startColumn ⟨0, 0, false⟩ (Nat.zero_add _)
  have hsel := emits_phase (o := o) (g := ⟨n, 0, false⟩) (p := .sel) rfl
  exact ⟨g, hsel.append (hadv.append hmsg)⟩

/-- The clear phase, to the reselect phase (R172). -/
theorem emits_clear : Emits o (some .csel, ⟨0, 0, false⟩) (clearTransfers o.row)
    (some .sel, ⟨CLEAR_COUNT, 0, false⟩) := by
  have hcsel : Emits o (some .csel, ⟨0, 0, false⟩) [Transfer.c (rowOrigin o.row)]
      (some .csel0, ⟨0, 0, false⟩) := emits_phase rfl
  have hcsel0 : Emits o (some .csel0, ⟨0, 0, false⟩) [Transfer.c ROW0_ORIGIN]
      (some .cblank, ⟨0, 0, false⟩) := emits_phase rfl
  exact hcsel.append (hcsel0.append (emits_blanks CLEAR_COUNT ⟨0, 0, false⟩ (by decide) rfl))

/-- All phases of a RENDER from its first (R88, R186). -/
theorem emits_render (clr : Bool) (row : Row) (col : StartCol) (msg : List Byte) :
    ∃ g, Emits { row, startColumn := col.toNat, message := msg } (renderPhaseStart clr)
      (renderTransfers clr row col msg) (none, g) := by
  rw [renderTransfers_eq]
  cases clr with
  | false => exact emits_reselect 0
  | true =>
    obtain ⟨g, hsel⟩ := emits_reselect
      (o := { row, startColumn := col.toNat, message := msg }) CLEAR_COUNT
    exact ⟨g, emits_clear.append hsel⟩

end Emits

/-- Settles O19: the phases one after the other, and any fuel beyond them is not used. -/
theorem renderPhasesAgree : Obligations.RenderPhasesAgree := by
  intro c r col msg fuel hf
  obtain ⟨g, h⟩ := emits_render c r col msg
  exact h.run_eq hf

end Sys2Proof.StateProofs
end

section
/-! The STATUS port and the reset values. -/

namespace Sys2Proof.StateProofs

open Sys2Proof Sys2Proof.Laws Sys2Proof.Machine

theorem busy_eq (s : State) : s.busy = decide (s.seq ≠ .idle) := by
  unfold State.busy
  cases s.seq <;> rfl

/-- The three fields of `STATUS`, side by side, read back (R29). -/
theorem status_fields (f : Code) (d b : Bool) :
    (f ++ BitVec.ofBool d ++ BitVec.ofBool b).getLsbD 0 = b ∧
    (f ++ BitVec.ofBool d ++ BitVec.ofBool b).getLsbD 1 = d ∧
    (f ++ BitVec.ofBool d ++ BitVec.ofBool b).extractLsb' 2 2 = f := by
  revert f d b
  decide

/-- Settles O27: `STATUS` is the three fields side by side. -/
theorem statusPort : Obligations.StatusPort := fun s =>
  busy_eq s ▸ status_fields s.fault s.dropped s.busy

theorem undefined_get (sig : Sig) : PinLatches.undefined.get sig = .undef := by
  cases sig with
  | rs | rw | en => rfl
  | d b => exact Vector.getElem_replicate b.isLt

theorem status_eq_zero {s : State} (hs : s.seq = .idle) (hd : s.dropped = false)
    (hf : s.fault = 0) : s.status = 0 := by
  simp [State.status, State.busy, hs, hd, hf]

/-- Settles O32: `State.resetWith` names each value of R40. -/
theorem resetValues : Obligations.ResetValues := fun _ =>
  ⟨rfl, rfl, status_eq_zero rfl rfl rfl, rfl, rfl, rfl, rfl, undefined_get, cfgEvents_eq, rfl⟩

/-- Settles O33: reset has the step's turn, and `enterReset` takes the reset values. -/
theorem resetAsserted : Obligations.ResetAsserted := by
  intro s t hc hs hr
  have hstep := step_of_turn hc (.reset hs (by rw [hr]; rfl))
  refine ⟨_, hstep, by simp [tickReset, hr], rfl, rfl, rfl, status_eq_zero rfl rfl rfl,
    rfl, rfl, rfl, rfl, undefined_get, rfl, rfl, fun hen => ?_, fun hen => ?_⟩
  · rw [enterReset_observer]
    exact if_neg hen
  · rw [enterReset_observer]
    exact if_pos hen

end Sys2Proof.StateProofs
end

section
/-! The decoder reads back what the encoder writes, from the word and from its two bytes (R59, R80 to R87). -/

namespace Sys2Proof.MemoryProofs

open Sys2Proof Sys2Proof.Laws Sys2Proof.StateProofs

/-! ### From the word -/

theorem formatW_wordW (op : BitVec 5) (v : Byte) (mk : Byte → Instr) :
    formatW (wordW op v) mk = .ok (mk v) :=
  formatW_ok_iff.2 ⟨wordW_zeros op v, by rw [lowByte_wordW]⟩

theorem formatR_wordR (op : BitVec 5) (c : Bool) (r : Row) (col : StartCol) :
    formatR (wordR op c r col) = .ok (.render c r col) := by
  obtain ⟨h8, h9, h10⟩ := wordR_bits op col c r
  refine formatR_ok_iff.2 ⟨h8, ?_⟩
  rw [colField_wordR, BitVec.getLsbD_eq_getElem (by decide), BitVec.getLsbD_eq_getElem (by decide),
    h9, h10, rowOfBit_bit]

/-- A row with operands is read back field by field; the words of the others are closed. -/
theorem decode_encode (i : Instr) : decode (encode i) = .ok i := by
  cases i with
  | render c r col =>
    rw [encode, decode, decodeRequest, opField_wordR]
    exact formatR_wordR _ c r col
  | wcmd v | wdata v =>
    rw [encode, decode, decodeRequest, opField_wordW]
    exact formatW_wordW _ v _
  | data v => exact decodeBus_dataWord v
  | _ => rfl

/-! ### From the bytes -/

/-- The two bytes of a request word, joined again (R59). -/
theorem reqWord_of_bytes (w : ReqWord) :
    (w.extractLsb' 8 8).setWidth 16 <<< 8 ||| (w.extractLsb' 0 8).setWidth 16 = w := by
  ext k hk
  interval_cases k <;> simp

/-- The two bytes of a bus word, joined again: the word with six zero bits above it (log entry 27). -/
theorem busWord_of_bytes (b : BusWord) :
    ((b.extractLsb' 8 2).setWidth 8).setWidth 16 <<< 8 ||| (b.extractLsb' 0 8).setWidth 16 =
      b.setWidth 16 := by
  ext k hk
  interval_cases k <;> simp

theorem decodeBytes_request (w : ReqWord) (rest : List Byte) :
    decodeBytes .request ((Encoded.request w).bytes ++ rest) = (decodeRequest w).map (·, rest) := by
  simp only [Encoded.bytes, List.cons_append, List.nil_append, decodeBytes, reqWord_of_bytes]

theorem decodeBytes_bus (b : BusWord) (rest : List Byte) :
    decodeBytes .bus ((Encoded.bus b).bytes ++ rest) = (decodeBus b).map (·, rest) := by
  have hhigh : (b.setWidth 16).extractLsb' 10 6 = 0 := by
    ext k hk
    simp
  have hlow : (b.setWidth 16).extractLsb' 0 10 = b := by
    ext k hk
    simp [hk, show k < 16 by omega]
  simp only [Encoded.bytes, List.cons_append, List.nil_append, decodeBytes, busWord_of_bytes, hhigh,
    hlow, if_true]

/-- The bytes of an instruction's word are read in the instruction's own space. -/
theorem decodeBytes_encode (i : Instr) (rest : List Byte) :
    decodeBytes i.space ((encode i).bytes ++ rest) = .ok (i, rest) := by
  have h := decode_encode i
  cases he : encode i with
  | request w =>
    rw [he, decode] at h
    rw [space_of_encode_request he, decodeBytes_request, h]
    rfl
  | bus b =>
    rw [he, decode] at h
    rw [space_of_encode_bus he, decodeBytes_bus, h]
    rfl

/-- Settles O1: a word is read back field by field, and its two bytes joined again are the word. -/
theorem decodeOfEncode : Obligations.DecodeOfEncode := by
  intro sp i rest h
  obtain rfl : i.space = sp := by simpa [Instr.wf] using h
  exact ⟨decode_encode i, decodeBytes_encode i rest⟩

end Sys2Proof.MemoryProofs
end

section
/-! The message space: reads, canonical memories, and the host's two writes (R51 to R53). -/

namespace Sys2Proof.MemoryProofs

open Sys2Proof Sys2Proof.Laws Sys2Proof.Machine Sys2Proof.StateProofs

/-! ### Reads -/

section

variable {s : State} {m m' : Memory} {a n : Nat} {b : Byte} {t : List HostInput} {h : HostWrite}

theorem memRead_of_read (hr : s.msg.read? a = some b) (ha : a < s.cfg.msgCap) :
    s.memRead a = some b := by
  simp [State.memRead, State.messageByte, hr, ha]

theorem memRead_of_le (ha : s.cfg.msgCap ≤ a) : s.memRead a = none := if_neg (Nat.not_lt.2 ha)

/-- A read finds the listed bytes: with rising addresses no later entry hides behind an earlier one. -/
theorem read_eq_some_iff (hm : m.wf) : m.read? a = some b ↔ (a, b) ∈ m := by
  induction m with
  | nil => simp [Memory.read?]
  | cons e m ih =>
    obtain ⟨x, v⟩ := e
    obtain ⟨hx, hw⟩ := List.pairwise_cons.1 hm
    simp only [Memory.read?, List.mem_cons, Prod.mk.injEq]
    split
    · next heq =>
      subst heq
      have hnot : (a, b) ∉ m := fun hmem => lt_irrefl a (hx a (List.mem_map_of_mem hmem))
      simp [hnot, eq_comm]
    · next hne => simp [hne, ih hw]

/-- Two canonical memories that read alike list the same bytes in the same order. -/
theorem memory_ext (hm : m.wf) (hm' : m'.wf) (h : ∀ a, m.read? a = m'.read? a) : m = m' := by
  have hrel : ∀ {m : Memory}, m.wf → m.Pairwise (InvImage (· < ·) Prod.fst) := List.pairwise_map.1
  refine (hrel hm).eq_of_mem_iff (hrel hm') fun ⟨a, b⟩ => ?_
  rw [← read_eq_some_iff hm, ← read_eq_some_iff hm', h]

/-! ### The host's writes -/

theorem tickReset_of_noReset (hr : s.resetIn = []) : tickReset s = s := by
  rw [tickReset, hr, List.tail_nil, ← hr]

/-- The write the host presents to the idle engine takes effect in the step (R53). -/
theorem step_hostWrite (hp : AtPort s) (he : s.host = .write h :: t) :
    step s = .next (hostWrite h { s with host := t }) := by
  have hturn := step_of_turn hp.config (.write ⟨hp.noPulse, by simp [hp.noReset]⟩ hp.released hp.idle he)
  rwa [tickReset_of_noReset hp.noReset] at hturn

theorem hostWrite_byte (ha : a < s.cfg.msgCap) :
    hostWrite (.byte a b) s = { s with msg := s.msg.write a b } := if_pos ha

theorem hostWrite_byte_refused (ha : s.cfg.msgCap ≤ a) : hostWrite (.byte a b) s = s :=
  if_neg (Nat.not_lt.2 ha)

theorem hostWrite_len (hn : n < 2 ^ s.cfg.lenW) : hostWrite (.len n) s = { s with msgLen := n } :=
  if_pos hn

theorem memRead_write_same (ha : a < s.cfg.msgCap) :
    ({ s with msg := s.msg.write a b } : State).memRead a = some b :=
  memRead_of_read (s := { s with msg := s.msg.write a b }) read_write_same ha

theorem memRead_write_other {x : Nat} (hx : x ≠ a) :
    ({ s with msg := s.msg.write a b } : State).memRead x = s.memRead x := by
  simp [State.memRead, State.messageByte, read_write_other hx]

/-- A length beyond `MSG_CAP` faults at the next RENDER (R92). -/
theorem exec_render_tooLong (hi : s.seq = .idle) (hl : s.cfg.msgCap < s.msgLen) (c : Bool) (r : Row)
    (col : StartCol) : exec (.render c r col) s = .next (raiseFault 2 s) := by
  rw [exec_idle rfl hi, if_pos ⟨rfl, hl⟩]
  rfl

end

/-- Settles O30: a canonical memory is the list of what it reads. -/
theorem messageMemory : Obligations.MessageMemory :=
  ⟨fun _ _ _ => memRead_of_read, fun _ _ => memRead_of_le, fun _ _ => memory_ext⟩

/-- Settles O29: the host's turn writes the message or the length, and the busy engine holds the entry off. -/
theorem hostWrites : Obligations.HostWrites := by
  refine ⟨fun s a b t hp he => ⟨fun ha => ?_, fun ha => ?_⟩,
    fun s n t hp he hn => ⟨?_, fun hl c r col => ?_⟩, fun s u n h t hev he hst => ?_⟩
  · rw [step_hostWrite hp he, hostWrite_byte (s := { s with host := t }) ha]
    exact ⟨_, rfl, rfl, memRead_write_same (s := { s with host := t }) ha,
      fun x hx => memRead_write_other (s := { s with host := t }) hx⟩
  · rw [step_hostWrite hp he, hostWrite_byte_refused (s := { s with host := t }) ha]
  · rw [step_hostWrite hp he, hostWrite_len (s := { s with host := t }) hn]
  · exact exec_render_tooLong (s := { s with host := t, msgLen := n }) hp.idle hl c r col
  · obtain ⟨_, _, hlen, _, hhost⟩ := heldOffWhileBusy.2 s u n hev hst
    obtain ⟨_, _, _, _, _, _, hmsg, _⟩ := sequencerPerformsOneEvent s u n hev hst
    exact ⟨hhost (by simp [he]), hmsg, hlen⟩

end Sys2Proof.MemoryProofs
end

section
/-! No state of the invariant stops (R52, R116, R230). -/

namespace Sys2Proof.MemoryProofs

open Sys2Proof Sys2Proof.Laws Sys2Proof.Machine Sys2Proof.StateProofs

variable {s : State}

theorem presentWord_total (w : ReqWord) (s : State) : ∃ t, presentWord w s = .next t := by
  unfold presentWord
  split
  · exact exec_total _ s
  · exact ⟨_, rfl⟩

theorem hostTurn_total (s : State) : ∃ t, hostTurn s = .next t := by
  unfold hostTurn
  split
  · exact ⟨_, rfl⟩
  · exact ⟨_, rfl⟩
  · exact ⟨_, rfl⟩
  · exact presentWord_total _ _
  · exact presentWord_total _ _

/-- The sequencer of a busy engine has its turn: its message read is below `R_LEN` (R52). -/
theorem turn_of_event {n : Nat} (h : Inv s) (hu : Unreset s) (hn : s.seq = .pos n) :
    ∃ t, Turn s t := by
  obtain ⟨p, hp⟩ := h.busy n hn
  have hlt := hp.onList
  have hrange := hp.range
  rw [List.drop_eq_getElem_cons hlt] at hrange
  obtain ⟨t, ht⟩ := perform_of_inRange (s := { tickReset s with host := hostTick s.host })
    rfl hrange h.lengths.2
  exact ⟨_, .event hu hp.released hn (List.getElem?_eq_getElem hlt) ht⟩

/-- With no pulse to be taken and reset not asserted, the engine moves: out of reset, along its list, or with the
host. -/
theorem step_of_unreset (h : Inv s) (hu : Unreset s) : ∃ t, step s = .next t := by
  cases hin : s.inReset with
  | true => exact ⟨_, step_of_turn h.config (.release hu hin)⟩
  | false =>
    cases hseq : s.seq with
    | idle =>
      rw [step_eq_hostTurn h.config hu hin hseq]
      exact hostTurn_total _
    | pos n =>
      obtain ⟨t, ht⟩ := turn_of_event h hu hseq
      exact ⟨t, step_of_turn h.config ht⟩

/-- Settles O57: the observer, reset, the sequencer or the host has its turn, and none of them stops. -/
theorem noStepStops : Obligations.NoStepStops := by
  intro s h
  cases hs : s.strobe with
  | some w => exact ⟨_, step_strobe h.config hs⟩
  | none =>
    by_cases ha : s.resetIn.head? = some true
    · exact ⟨_, step_of_turn h.config (.reset hs ha)⟩
    · exact step_of_unreset h ⟨hs, ha⟩

end Sys2Proof.MemoryProofs
end

section
/-! Words and instructions correspond: a legal word is the word of the one instruction it decodes to, and the legal
words are counted by their operands (R84 to R91). -/

namespace Sys2Proof.EncodingProofs

open Sys2Proof Sys2Proof.Laws Sys2Proof.Machine Sys2Proof.StateProofs Sys2Proof.MemoryProofs

/-! ### One word, one operation -/

/-- Settles O2: in the request space the fields of a word put together again are the word, and a row of the bus table
is the row of its own word. -/
theorem encodeOfDecode : Obligations.EncodeOfDecode := by
  intro e i h
  cases e with
  | request w => exact encode_of_decodeRequest h
  | bus b => exact encode_of_decodeBus h

/-- Settles O4: every word is closed and decodes by evaluation. -/
theorem specWordsDecode : Obligations.SpecWordsDecode :=
  ⟨rfl, rfl, rfl, rfl, rfl, rfl, rfl, rfl, rfl, rfl, rfl, rfl, rfl⟩

section

variable {w : ReqWord} {i : Instr}

theorem decodeRequest_eq_ok_iff : decodeRequest w = .ok i ↔ encode i = .request w := by
  refine ⟨encode_of_decodeRequest, fun h => ?_⟩
  have hd := decode_encode i
  rwa [h] at hd

/-! ### The requests by their formats -/

/-- The requests of format N, which have no operand (R84, R85). -/
def operandFree : List Instr :=
  [.init, .clr, .home, .cshl, .cshr, .dshl, .dshr, .doff, .doffc, .don, .donb, .mcl, .mcr, .sdl, .sdr,
   .row0, .row1]

/-- A request and its word, by the formats of R84: N with operation 1 or at least 16, R with operation 2, W with
operation 3 or 4 (R85). -/
theorem request_cases (h : encode i = .request w) :
    (i ∈ operandFree ∧ ∃ op : BitVec 5, (op.toNat = 1 ∨ 16 ≤ op.toNat) ∧ w = wordN op) ∨
    (∃ c r col, i = .render c r col ∧ w = wordR 2 c r col) ∨
    (∃ v, i = .wcmd v ∧ w = wordW 3 v) ∨ (∃ v, i = .wdata v ∧ w = wordW 4 v) := by
  cases i with
  | render c r col => cases h; exact .inr (.inl ⟨c, r, col, rfl, rfl⟩)
  | wcmd v => cases h; exact .inr (.inr (.inl ⟨v, rfl, rfl⟩))
  | wdata v => cases h; exact .inr (.inr (.inr ⟨v, rfl, rfl⟩))
  | init | clr | home | cshl | cshr | dshl | dshr | doff | doffc | don | donb | mcl | mcr | sdl | sdr | row0
  | row1 => cases h; exact .inl ⟨by decide, _, by decide, rfl⟩
  | _ => cases h

/-- The operation field of the request words (R85): 1 or at least 16 in format N, 2 in R, 3 and 4 in W. -/
theorem mem_operandFree_iff (h : encode i = .request w) :
    i ∈ operandFree ↔ (opField w).toNat = 1 ∨ 16 ≤ (opField w).toNat := by
  obtain ⟨hi, op, hop, rfl⟩ | ⟨c, r, col, rfl, rfl⟩ | ⟨v, rfl, rfl⟩ | ⟨v, rfl, rfl⟩ := request_cases h
  · rw [opField_wordN]
    exact iff_of_true hi hop
  · rw [opField_wordR]
    simp [operandFree]
  all_goals
    rw [opField_wordW]
    simp [operandFree]

/-! ### The illegal words -/

theorem illegalWord_iff : IllegalWord w ↔
    (opField w).toNat = 0 ∨ (5 ≤ (opField w).toNat ∧ (opField w).toNat ≤ 15) ∨
    (((opField w).toNat = 1 ∨ 16 ≤ (opField w).toNat) ∧ w.extractLsb' 0 11 ≠ 0) ∨
    (((opField w).toNat = 3 ∨ (opField w).toNat = 4) ∧ w.extractLsb' 8 3 ≠ 0) ∨
    ((opField w).toNat = 2 ∧ w.getLsbD 8 = true) := Iff.rfl

/-- The word of a request is not among those that R90 calls illegal: its operation is in the table, and the bits its
format fixes are 0. -/
theorem not_illegalWord_of_encode (h : encode i = .request w) : ¬ IllegalWord w := by
  rw [illegalWord_iff]
  obtain ⟨-, op, hop, rfl⟩ | ⟨c, r, col, -, rfl⟩ | ⟨v, -, rfl⟩ | ⟨v, -, rfl⟩ := request_cases h
  · rw [opField_wordN, wordN_zeros]
    simp only [ne_eq, not_true_eq_false, and_false, false_or]
    omega
  · rw [opField_wordR, show (wordR 2 c r col).getLsbD 8 = false from (wordR_bits 2 col c r).1]
    simp
  all_goals
    rw [opField_wordW, wordW_zeros]
    simp

/-- A word decodes unless R90 calls it illegal. -/
theorem exists_decodeRequest_iff : (∃ i, decodeRequest w = .ok i) ↔ ¬ IllegalWord w := by
  refine ⟨fun ⟨i, h⟩ => not_illegalWord_of_encode (encode_of_decodeRequest h), fun h => ?_⟩
  by_contra hn
  exact h (illegalWord_of_reject (not_exists.1 hn))

/-! ### The legal words counted -/

/-- A request of format N by its place in the list. -/
def formatNRequest (k : Fin operandFree.length) : Instr := operandFree.get k

/-- A request of format W: `WCMD` or `WDATA` of a byte. -/
def formatWRequest : Byte ⊕ Byte → Instr := Sum.elim .wcmd .wdata

/-- A request of format R by its CLR, ROW and COL fields. -/
def formatRRequest (f : Bool × Bool × StartCol) : Instr := .render f.1 (rowOfBit f.2.1) f.2.2

/-- Every request, by its format and operands. -/
def requestOf : Fin operandFree.length ⊕ (Byte ⊕ Byte) ⊕ Bool × Bool × StartCol → Instr :=
  Sum.elim formatNRequest (Sum.elim formatWRequest formatRRequest)

theorem exists_formatNRequest_iff : (∃ k, formatNRequest k = i) ↔ i ∈ operandFree := List.mem_iff_get.symm

theorem formatNRequest_injective : Function.Injective formatNRequest :=
  List.nodup_iff_injective_get.1 (by decide)

theorem formatWRequest_injective : Function.Injective formatWRequest :=
  Function.Injective.sumElim (fun _ _ => Instr.wcmd.inj) (fun _ _ => Instr.wdata.inj) (by simp)

theorem formatRRequest_injective : Function.Injective formatRRequest := by
  rintro ⟨c, r, col⟩ ⟨c', r', col'⟩ h
  obtain ⟨rfl, hr, rfl⟩ := Instr.render.inj h
  have hbit := congrArg Row.bit hr
  rw [bit_rowOfBit, bit_rowOfBit] at hbit
  rw [show r = r' from hbit]

/-- The formats share no request. -/
theorem requestOf_injective : Function.Injective requestOf := by
  refine formatNRequest_injective.sumElim
    (formatWRequest_injective.sumElim formatRRequest_injective ?_) ?_
  · rintro (v | v) f h <;> cases h
  · intro k x h
    have hk : formatNRequest k ∈ operandFree := exists_formatNRequest_iff.1 ⟨k, rfl⟩
    rw [h] at hk
    rcases x with (v | v) | f <;> simp [operandFree, formatWRequest, formatRRequest] at hk

/-- The three formats have all requests. -/
theorem exists_requestOf (h : encode i = .request w) : ∃ x, requestOf x = i := by
  obtain ⟨hi, -⟩ | ⟨c, r, col, rfl, -⟩ | ⟨v, rfl, -⟩ | ⟨v, rfl, -⟩ := request_cases h
  · obtain ⟨k, hk⟩ := exists_formatNRequest_iff.2 hi
    exact ⟨.inl k, hk⟩
  · exact ⟨.inr (.inr (c, r.bit, col)), by simp [requestOf, formatRRequest]⟩
  · exact ⟨.inr (.inl (.inl v)), rfl⟩
  · exact ⟨.inr (.inl (.inr v)), rfl⟩

/-- Every member of the three formats has a request word. -/
theorem exists_word_requestOf : ∀ x, ∃ w, encode (requestOf x) = .request w
  | .inl k => by
    have hall : ∀ i ∈ operandFree, ∃ w, encode i = .request w := by simp [operandFree, encode]
    exact hall _ (exists_formatNRequest_iff.1 ⟨k, rfl⟩)
  | .inr (.inl (.inl _)) | .inr (.inl (.inr _)) | .inr (.inr _) => ⟨_, rfl⟩

/-- As many words decode to one of a family of requests as the family has members. -/
theorem card_words {α : Type} {f : α → Instr} (hf : Function.Injective f)
    (hw : ∀ a, ∃ w, encode (f a) = .request w) :
    Nat.card { w : ReqWord // ∃ a, decodeRequest w = .ok (f a) } = Nat.card α := by
  choose word hword using hw
  have hdec (a : α) : decodeRequest (word a) = .ok (f a) := decodeRequest_eq_ok_iff.2 (hword a)
  refine (Nat.card_congr (Equiv.ofBijective (fun a => ⟨word a, a, hdec a⟩) ⟨fun a b h => ?_, ?_⟩)).symm
  · have hab : word a = word b := congrArg Subtype.val h
    exact hf (Except.ok.inj ((hdec a).symm.trans (hab ▸ hdec b)))
  · rintro ⟨w, a, h⟩
    refine ⟨a, Subtype.ext ?_⟩
    exact Encoded.request.inj ((hword a).symm.trans (encode_of_decodeRequest h))

theorem card_byte : Nat.card Byte = 256 := by
  rw [Nat.card_congr BitVec.equivFin.toEquiv, Nat.card_fin]
  rfl

theorem card_operandFree : Nat.card (Fin operandFree.length) = 17 := Nat.card_fin _

theorem card_formatR : Nat.card (Bool × Bool × StartCol) = 1024 := by
  rw [Nat.card_prod, Nat.card_prod, card_byte, Nat.card_eq_fintype_card, Fintype.card_bool]

theorem card_formatW : Nat.card (Byte ⊕ Byte) = 512 := by
  rw [Nat.card_sum, card_byte]

/-- The words of format N by their operation field are those that decode to a request of that format. -/
theorem legal_formatN_iff :
    (¬ IllegalWord w ∧ ((w.extractLsb' 11 5).toNat = 1 ∨ 16 ≤ (w.extractLsb' 11 5).toNat)) ↔
      ∃ k, decodeRequest w = .ok (formatNRequest k) := by
  constructor
  · rintro ⟨hl, hop⟩
    obtain ⟨i, hi⟩ := exists_decodeRequest_iff.2 hl
    obtain ⟨k, rfl⟩ := exists_formatNRequest_iff.2 ((mem_operandFree_iff (encode_of_decodeRequest hi)).2 hop)
    exact ⟨k, hi⟩
  · rintro ⟨k, hk⟩
    have he := encode_of_decodeRequest hk
    exact ⟨not_illegalWord_of_encode he, (mem_operandFree_iff he).1 (exists_formatNRequest_iff.1 ⟨k, rfl⟩)⟩

theorem decodes_formatR_iff :
    (∃ c r col, decodeRequest w = .ok (.render c r col)) ↔ ∃ f, decodeRequest w = .ok (formatRRequest f) := by
  constructor
  · rintro ⟨c, r, col, h⟩
    exact ⟨(c, r.bit, col), by rwa [formatRRequest, rowOfBit_bit]⟩
  · rintro ⟨f, h⟩
    exact ⟨_, _, _, h⟩

theorem decodes_formatW_iff :
    (∃ v, decodeRequest w = .ok (.wcmd v) ∨ decodeRequest w = .ok (.wdata v)) ↔
      ∃ f, decodeRequest w = .ok (formatWRequest f) :=
  exists_or.trans (Sum.exists (p := fun f => decodeRequest w = .ok (formatWRequest f))).symm

theorem decodes_iff_requestOf :
    (∃ i, decodeRequest w = .ok i) ↔ ∃ x, decodeRequest w = .ok (requestOf x) := by
  constructor
  · rintro ⟨i, hi⟩
    obtain ⟨x, rfl⟩ := exists_requestOf (encode_of_decodeRequest hi)
    exact ⟨x, hi⟩
  · rintro ⟨x, hx⟩
    exact ⟨_, hx⟩

end

/-- Settles O3: the words that decode are as many as the requests of each format. -/
theorem legalWords : Obligations.LegalWords := by
  refine ⟨fun w => exists_decodeRequest_iff, ?_, ?_, ?_, ?_, .inl rfl, ?_⟩
  · simp_rw [decodes_iff_requestOf, card_words requestOf_injective exists_word_requestOf, Nat.card_sum,
      card_byte, card_operandFree, card_formatR]
  · simp_rw [decodes_formatR_iff]
    rw [card_words formatRRequest_injective fun f => exists_word_requestOf (.inr (.inr f)), card_formatR]
  · simp_rw [decodes_formatW_iff]
    rw [card_words formatWRequest_injective fun f => exists_word_requestOf (.inr (.inl f)), card_formatW]
  · simp_rw [legal_formatN_iff]
    rw [card_words formatNRequest_injective fun k => exists_word_requestOf (.inl k), card_operandFree]
  · unfold IllegalWord
    decide

end Sys2Proof.EncodingProofs
end

section
/-! A request word at the port of the idle engine: accepted, or one of the two faults (R88 to R92). -/

namespace Sys2Proof.EncodingProofs

open Sys2Proof Sys2Proof.Laws Sys2Proof.Machine Sys2Proof.StateProofs Sys2Proof.MemoryProofs

section

variable {s : State} {w : ReqWord} {i : Instr}

/-! ### Acceptance -/

theorem renderProgram_ne_nil (c : Bool) (r : Row) (col : StartCol) (len : Nat) :
    renderProgram c r col len ≠ [] := by
  simp [renderProgram, renderXfers, reselectPhase, transfersMicros, transferMicros, transportPhases]

/-- No request has an empty event list, so acceptance starts at event 0 (R23, R88). -/
theorem programOf_ne_nil (h : i.space = .request) (n : Nat) : programOf n i ≠ [] := by
  cases i with
  | render c r col => exact renderProgram_ne_nil c r col n
  | init | wcmd | wdata | clr | home | cshl | cshr | dshl | dshr | doff | doffc | don | donb | mcl | mcr | sdl
  | sdr | row0 | row1 => exact List.cons_ne_nil _ _
  | _ => cases h

/-- An idle engine accepts a request whose length, for a RENDER, is in range (R88, R92). -/
theorem exec_accepts (h : encode i = .request w) (hi : s.seq = .idle)
    (hl : isRender i = true → s.msgLen ≤ s.cfg.msgCap) :
    exec i s = .next { acceptLatches i s with opreg := w, seq := .pos 0 } := by
  have hne := programOf_ne_nil (space_of_encode_request h) s.msgLen
  rw [exec_idle h hi, if_neg fun hc => Nat.not_lt.2 (hl hc.1) hc.2, accept,
    if_neg (by simpa using hne)]

end

/-- Settles O7: acceptance sets `OPREG` and `SEQ`, and `acceptLatches` says what a RENDER takes besides. -/
theorem requestAccepted : Obligations.RequestAccepted := by
  intro i w s h hi
  refine ⟨fun hn => ?_, ?_⟩
  · have hr : isRender i ≠ true := fun hr => by
      obtain ⟨c, r, col, rfl⟩ := render_of_isRender hr
      exact hn c r col rfl
    rw [exec_accepts h hi fun h => absurd h hr, acceptLatches_of_not_render hn]
  · rintro c r col rfl hl
    exact exec_accepts h hi fun _ => hl

section

variable {s u : State} {w : ReqWord} {i : Instr} {t : List HostInput}

/-! ### The port -/

/-- The step of an engine at its port takes the word the host presents (R88, R237). -/
theorem step_presentWord (hp : AtPort s) (h : Presents s w u) : step s = presentWord w u := by
  rw [step_eq_hostTurn hp.config ⟨hp.noPulse, by simp [hp.noReset]⟩ hp.released hp.idle, hostTurn_presents h]

theorem presents_request (hp : AtPort s) (he : s.host = .request w :: t) :
    Presents s w { s with host := t } := by
  have h := Presents.request he
  rwa [tickReset_of_noReset hp.noReset] at h

theorem presents_both {hw : HostWrite} (hp : AtPort s) (he : s.host = .both hw w :: t) :
    Presents s w (hostWrite hw { s with host := t }) := by
  have h := Presents.both he
  rwa [tickReset_of_noReset hp.noReset] at h

theorem presentWord_of_decode (h : decodeRequest w = .ok i) (s : State) : presentWord w s = exec i s := by
  rw [presentWord, h]

/-- A word that R90 calls illegal raises `Fault(1)`. -/
theorem presentWord_of_illegal (h : IllegalWord w) (s : State) :
    presentWord w s = .next (raiseFault codeIllegalRequest s) := by
  unfold presentWord
  split
  · next i hi => exact absurd h (exists_decodeRequest_iff.1 ⟨i, hi⟩)
  · rfl

theorem step_of_illegal (hp : AtPort s) (he : s.host = .request w :: t) (h : IllegalWord w) :
    step s = .next (raiseFault codeIllegalRequest { s with host := t }) := by
  rw [step_presentWord hp (presents_request hp he), presentWord_of_illegal h]

end

/-- Settles O5: the host's turn decodes the word it finds, after the write that comes with it. -/
theorem stepRunsPresentedRequest : Obligations.StepRunsPresentedRequest := by
  intro s w i t hp hd
  refine ⟨fun he => ?_, fun hw he => ?_⟩
  · rw [step_presentWord hp (presents_request hp he), presentWord_of_decode hd]
  · rw [step_presentWord hp (presents_both hp he), presentWord_of_decode hd]

/-- Settles O23: the decoder rejects the word, and `raiseFault` writes `FAULT` and the response. -/
theorem illegalWordFaults : Obligations.IllegalWordFaults := fun _ _ _ => step_of_illegal

/-- Settles O24: a RENDER word decodes, and its meaning looks at the length; an illegal word never gets there. -/
theorem lengthFaults : Obligations.LengthFaults := by
  intro s w t hp he hl
  refine ⟨fun c r col hw => ?_, fun h => ⟨_, step_of_illegal hp he h, rfl, rfl⟩⟩
  rw [step_presentWord hp (presents_request hp he), presentWord_of_decode (decodeRequest_eq_ok_iff.2 hw)]
  exact exec_render_tooLong (s := { s with host := t }) hp.idle hl c r col

end Sys2Proof.EncodingProofs
end

section
/-! The transfer trace: the word sampled in each pulse (R80, R117). -/

namespace Sys2Proof.EncodingProofs

open Sys2Proof Sys2Proof.Laws Sys2Proof.Machine

theorem transferTrace_append (p : PinLatches) (es fs : List PinEvent) :
    transferTrace p (es ++ fs) = transferTrace p es ++ transferTrace (p.afterAll es) fs := by
  induction es generalizing p with
  | nil => rfl
  | cons e es ih =>
    cases e with
    | dwell ms => exact congrArg (p.busWord? :: ·) (ih p)
    | set sig lvl => exact ih (p.set sig lvl)
    | cfg sig => exact ih p

/-- The one word of a transfer is sampled with its setup writes done and EN high, whatever the latches held. -/
theorem transferTrace_events (p : PinLatches) (ms : Nat) (t : Transfer) :
    transferTrace p (t.events ms) = [some t.word] := by
  have hen : transferTrace p (t.events ms) = [({ t.latches with en := .driven .high } : PinLatches).busWord?] := by
    simp only [Transfer.events, transferTrace, latches_after]
    rfl
  rw [hen, busWord_latches]

theorem transferTrace_transferEvents (p : PinLatches) (ms : Nat) (ts : List Transfer) :
    transferTrace p (transferEvents ms ts) = ts.map fun t => some t.word := by
  induction ts generalizing p with
  | nil => rfl
  | cons t ts ih =>
    calc transferTrace p (t.events ms ++ transferEvents ms ts)
        = [some t.word] ++ transferTrace (p.afterAll (t.events ms)) (transferEvents ms ts) := by
          rw [transferTrace_append, transferTrace_events]
      _ = some t.word :: ts.map fun t => some t.word := congrArg (some t.word :: ·) (ih _)

/-- Bit 9 of a data word is free in its value (R80). -/
theorem dataWord_eq_add (v : Byte) : dataWord v = 0x200 + v.setWidth 10 := by
  revert v
  decide

/-- Settles O20: the latches at the dwell are the transfer's own, and the pulses come one after the other. -/
theorem sampledBusWord : Obligations.SampledBusWord := by
  refine ⟨fun p ms v => ⟨transferTrace_events p ms (.c v), ?_⟩, transferTrace_transferEvents⟩
  rw [← dataWord_eq_add]
  exact transferTrace_events p ms (.d v)

end Sys2Proof.EncodingProofs
end

section
/-! The events of transfers by their positions: the enable pulse (R112, R113). -/

namespace Sys2Proof.TransportProofs

open Sys2Proof Sys2Proof.Laws Sys2Proof.Machine

section

variable {ms k d : Nat} {t : Transfer}

/-- Event `j` of a list of transfers is event `j % 13` of transfer `j / 13` (R112). -/
theorem transferEvents_getElem? (ms : Nat) (ts : List Transfer) (j : Nat) :
    (transferEvents ms ts)[j]? = ts[j / 13]?.bind fun t => (t.events ms)[j % 13]? := by
  induction ts generalizing j with
  | nil => rfl
  | cons t ts ih =>
    have hlen : (t.events ms).length = 13 := rfl
    change (t.events ms ++ transferEvents ms ts)[j]? = _
    obtain hj | hj := Nat.lt_or_ge j 13
    · rw [List.getElem?_append_left (hlen ▸ hj), Nat.div_eq_of_lt hj, Nat.mod_eq_of_lt hj]
      rfl
    · obtain ⟨i, rfl⟩ := Nat.exists_eq_add_of_le' hj
      rw [List.getElem?_append_right (by omega), hlen, Nat.add_sub_cancel, ih,
        Nat.add_div_right _ (by decide), Nat.add_mod_right, List.getElem?_cons_succ]

/-- EN is raised by event 10 of a transfer and by no other (R113). -/
theorem events_enHigh_iff : (t.events ms)[k]? = some (.set .en .high) ↔ k = 10 := by
  refine ⟨fun h => ?_, fun h => h ▸ rfl⟩
  obtain ⟨hk, -⟩ := List.getElem?_eq_some_iff.1 h
  replace hk : k < 13 := hk
  interval_cases k <;> simp_all [Transfer.events]

/-- The dwell is event 11 of a transfer and no other (R113). -/
theorem events_dwell_iff : (t.events ms)[k]? = some (.dwell d) ↔ k = 11 ∧ d = ms := by
  refine ⟨fun h => ?_, fun ⟨hk, hd⟩ => hk ▸ hd ▸ rfl⟩
  obtain ⟨hk, -⟩ := List.getElem?_eq_some_iff.1 h
  replace hk : k < 13 := hk
  interval_cases k <;> simp_all [Transfer.events]

end

/-- Settles O21: EN rises at event 10 of a transfer, and events 11 and 12 are of the same transfer. -/
theorem enablePulse : Obligations.EnablePulse := by
  intro ms ts j
  simp only [transferEvents_getElem?, Option.bind_eq_some_iff]
  refine ⟨?_, ?_⟩
  · rintro ⟨t, ht, he⟩
    have hk : j % 13 = 10 := events_enHigh_iff.1 he
    rw [show (j + 1) / 13 = j / 13 by omega, show (j + 1) % 13 = 11 by omega,
      show (j + 2) / 13 = j / 13 by omega, show (j + 2) % 13 = 12 by omega]
    exact ⟨⟨t, ht, rfl⟩, ⟨t, ht, rfl⟩⟩
  · rintro d ⟨t, ht, he⟩
    obtain ⟨hk, hd⟩ := events_dwell_iff.1 he
    rw [show (j + 1) / 13 = j / 13 by omega] at ht
    exact ⟨hd, t, ht, events_enHigh_iff.2 (by omega)⟩

end Sys2Proof.TransportProofs
end

section
/-! A request of fixed transfers, from its acceptance to the idle engine (R88, R89, R112, R130). -/

namespace Sys2Proof.TransportProofs

open Sys2Proof Sys2Proof.Laws Sys2Proof.Machine Sys2Proof.EncodingProofs Sys2Proof.StateProofs

section

variable {s s' : State} {xs : List Xfer} {ts : List Transfer} {i : Instr} {w : ReqWord}

/-! ### What a list of transfers leaves, whatever EN was -/

/-- The first pulse is heard as `State.hearer` says, and it leaves EN low for the others (R118). -/
theorem sends_lines_of_ne_nil (h : Sends xs ts s s') (hne : ts ≠ []) :
    s'.pins = (ts.getLast?.map Transfer.latches).getD s.pins ∧
    s'.observer = s.hearer.steps s.cfg.obs06Moves (ts.map Transfer.word) := by
  cases h with
  | nil => exact absurd rfl hne
  | @cons x v xs ts _ _ _ hs =>
    obtain ⟨-, hpins, hobs⟩ := hs.lines (by simp [afterTransfer, Transfer.latches])
    refine ⟨hpins.trans ?_, hobs.trans ?_⟩
    · rw [List.getLast?_cons]
      cases ts.getLast? <;> simp [afterTransfer]
    · simp [afterTransfer, Transfer.observed, State.hearer, Observer.steps]

/-- The end of a list of transfers: nothing differs from its beginning but the latches of a transfer and of
RENDER, the pins, the trace, the response, the host's list and the observer (R20, R89, R110). -/
theorem sends_finished (h : Sends xs ts s s') (hne : ts ≠ []) :
    { s' with seq := .idle, responses := s'.responses ++ [codeOk] } = { s with
      seq := .idle
      tKind := s'.tKind
      tVal := s'.tVal
      cnt := s'.cnt
      idx := s'.idx
      dropped := s'.dropped
      pins := (ts.getLast?.map Transfer.latches).getD s.pins
      trace := s.trace ++ transferEvents s.cfg.dwellMs ts
      responses := s.responses ++ [0]
      host := hostTick^[13 * xs.length] s.host
      observer := s.hearer.steps s.cfg.obs06Moves (ts.map Transfer.word) } := by
  obtain ⟨hcfg, hopreg, hrLen, hfault, hmsg, hmsgLen, hresp, hin, hreset, hstrobe, hepoch, hhost, htrace⟩ :=
    h.frame
  obtain ⟨hpins, hobs⟩ := sends_lines_of_ne_nil h hne
  simp only [State.mk.injEq, true_and]
  exact ⟨hcfg, hpins, hopreg, hrLen, hfault, hmsg, hmsgLen, congrArg (· ++ [0]) hresp, htrace, hin, hreset,
    hhost, hstrobe, hobs, hepoch⟩

/-! ### Transfers with fixed bytes and no latch updates -/

/-- The transfer as an operation with a fixed byte issues it (R130). -/
def plainXfer (t : Transfer) : Xfer := { kind := t.kind, src := .lit t.val, after := [] }

theorem sends_plain : ∀ (ts : List Transfer) (s : State), ∃ s', Sends (ts.map plainXfer) ts s s'
  | [], s => ⟨s, .nil s⟩
  | t :: ts, s =>
    have ⟨s', h⟩ := sends_plain ts (afterTransfer (plainXfer t) t s)
    ⟨s', .cons rfl h⟩

/-- The sequencer reads an accepted request from `OPREG` (R23, R32). -/
theorem program_of_encode (h : encode i = .request w) (s : State) (q : Seq) :
    ({ s with opreg := w, seq := q } : State).program = programOf s.rLen i := by
  simp only [State.program, decodeRequest_eq_ok_iff.2 h]

/-- A request whose event list is that of the fixed transfers `ts` is accepted, and fourteen steps for each of them
later the engine is idle with response 0, and nothing but the pins, the trace, the transfer latches, the
host's list and the observer has changed (R88, R89, R112). -/
theorem plain_request_completes (hp : AtPort s) (he : encode i = .request w) (hr : isRender i = false)
    (hprog : ∀ n, programOf n i = transfersMicros (ts.map plainXfer)) (hne : ts ≠ []) :
    ∃ u, exec i s = .next { s with opreg := w, seq := .pos 0 } ∧
      run (14 * ts.length) { s with opreg := w, seq := .pos 0 } = .next u ∧
      u = { s with
        opreg := w
        tKind := u.tKind
        tVal := u.tVal
        pins := (ts.getLast?.map Transfer.latches).getD s.pins
        trace := s.trace ++ transferEvents s.cfg.dwellMs ts
        responses := s.responses ++ [0]
        host := hostTick^[13 * ts.length] s.host
        observer := s.hearer.steps s.cfg.obs06Moves (ts.map Transfer.word) } := by
  obtain ⟨s', hs⟩ := sends_plain ts { s with opreg := w }
  obtain ⟨hcnt, hidx, hdrop⟩ := hs.counters (by simp [plainXfer])
  have hexec := requestAccepted i w s he hp.idle |>.1 (by rintro c r col rfl; cases hr)
  have hrun := run_request hp ((program_of_encode he s _).trans (hprog _)) (by simpa using hne) hs
  rw [List.length_map] at hrun
  refine ⟨_, hexec, hrun, (sends_finished hs hne).trans ?_⟩
  rw [hcnt, hidx, hdrop, List.length_map, ← hp.idle]
  rfl

end

/-! ### The operations -/

/-- Each row of `oneByteCommands` is an operation of one command byte (R85, R131 to R139, R141 to R146). -/
theorem oneByteCommands_program : ∀ c ∈ oneByteCommands,
    encode c.1 = .request c.2.1 ∧ isRender c.1 = false ∧
    ∀ n, programOf n c.1 = transfersMicros ([Transfer.c c.2.2].map plainXfer) := by
  simp only [oneByteCommands, List.cons_append, List.nil_append, List.forall_mem_cons]
  iterate 15 refine ⟨⟨rfl, rfl, fun _ => rfl⟩, ?_⟩
  exact fun c hc => absurd hc List.not_mem_nil

/-- Settles O10: each of the fifteen sends its one transfer. -/
theorem oneByteCommandsComplete : Obligations.OneByteCommandsComplete := by
  intro c hc s hp
  obtain ⟨he, hr, hprog⟩ := oneByteCommands_program c hc
  exact ⟨he, plain_request_completes hp he hr hprog (List.cons_ne_nil _ _)⟩

/-- Settles O11: `DONB` sends its two transfers in one request. -/
theorem donbCompletes : Obligations.DonbCompletes := by
  intro s hp
  have h := plain_request_completes (i := .donb) (w := 0xC800) (ts := [.c 0x0E, .c 0x0F]) hp rfl rfl
    (fun _ => rfl) (List.cons_ne_nil _ _)
  simp only [transferEvents, List.flatMap_cons, List.flatMap_nil, List.append_nil] at h
  rw [← List.append_assoc] at h
  exact ⟨rfl, h⟩

/-- The words of format W are their operation's base plus the value (R85, R86). -/
theorem encode_raw (v : Byte) :
    encode (.wcmd v) = .request (0x1800 + v.setWidth 16) ∧
    encode (.wdata v) = .request (0x2000 + v.setWidth 16) := by
  revert v
  decide

/-- Settles O12: the value of the word is the value of the transfer, whatever it is. -/
theorem rawTransfersComplete : Obligations.RawTransfersComplete := by
  intro s v hp
  obtain ⟨hcmd, hdata⟩ := encode_raw v
  refine ⟨plain_request_completes (ts := [.c v]) hp hcmd rfl (fun _ => rfl) (List.cons_ne_nil _ _), ?_⟩
  rw [← dataWord_eq_add]
  exact plain_request_completes (ts := [.d v]) hp hdata rfl (fun _ => rfl) (List.cons_ne_nil _ _)

end Sys2Proof.TransportProofs
end

section
/-! The observer where the controller is not known (R203, R221). -/

namespace Sys2Proof.TransportProofs

open Sys2Proof Sys2Proof.Laws Sys2Proof.Machine Sys2Proof.EncodingProofs Sys2Proof.MemoryProofs

section

variable {i j : Instr} {b : BusWord}

/-- No two instructions have one word (R91). -/
theorem encode_inj : encode i = encode j ↔ i = j := by
  refine ⟨fun h => ?_, congrArg encode⟩
  have hd := decode_encode i
  rw [h, decode_encode j] at hd
  cases hd
  rfl

theorem encode_eq_c06_iff (h : encode i = .bus b) : b = 0x006 ↔ i = .c06 := by
  rw [← encode_inj, h]
  exact (Encoded.bus.injEq b 0x006).symm.to_iff

end

/-- What the trace gives is the Display of R221, with every field known. -/
theorem initPrefix_setIncrement : Display.initPrefix.setIncrement = Display.afterInit := rfl

/-- Settles O47: the observer's step by its phase, and a bus word is 0x006 only as the word of `C(0x06)`. -/
theorem observerBeforeInit : Obligations.ObserverBeforeInit := by
  intro i b s h
  rw [exec_bus h, observe]
  refine ⟨fun hw hn => ?_, fun hw hseen hi => ?_, fun hb => ?_⟩
  · rw [take_waiting _ _ hw (by rwa [encode_eq_c06_iff h])]
    rfl
  · obtain rfl := (encode_eq_c06_iff h).2 hi
    rw [take_complete _ (by rw [hw]; decide) hseen, if_neg (by rw [hw]; decide), initPrefix_setIncrement]
  · rw [take_blind _ _ hb]
    rfl

end Sys2Proof.TransportProofs
end

section
/-! `INIT`, from its acceptance to the idle engine: step 1, then its seven transfers (R160 to R169). -/

namespace Sys2Proof.InitProofs

open Sys2Proof Sys2Proof.Laws Sys2Proof.Machine Sys2Proof.EncodingProofs Sys2Proof.TransportProofs

/-! ### Step 1 -/

/-- The three positions of step 1 performed, with the host's list moved on at each (R161, R272). -/
def afterStep1 (s : State) : State :=
  setIdleEnable .low (setPin .rw .low (setPin .rs .low { s with host := hostTick^[3] s.host }))

/-- Step 1 leaves EN low, so that the first transfer is heard (R118, R161). -/
theorem afterStep1_hearer (s : State) :
    (afterStep1 s).hearer = if s.pins.en = .driven .low then s.observer else Observer.lost := by
  simp [State.hearer, afterStep1]

theorem afterStep1_trace (s : State) :
    (afterStep1 s).trace = s.trace ++ [.set .rs .low, .set .rw .low, .set .en .low] := by
  simp [afterStep1]

/-- Step 1 takes three steps, and the engine is ready for the next position (R23, R161). -/
theorem run_initStep1 {s : State} {n : Nat} {rest : List Micro} (k : Nat) (hne : rest ≠ [])
    (h : Ready s n (initStep1 ++ rest)) :
    run (k + 3) s = run k { afterStep1 s with seq := .pos (n + 3) } ∧
      Ready { afterStep1 s with seq := .pos (n + 3) } (n + 3) rest := by
  obtain ⟨hrs, ready1⟩ := ready_next h (List.cons_ne_nil _ _) rfl
  obtain ⟨hrw, ready2⟩ := ready_next (ready1 h.strobe) (List.cons_ne_nil _ _) rfl
  obtain ⟨hen, ready3⟩ := ready_next (ready2 h.strobe) hne rfl
  exact ⟨(run_step hrs).trans ((run_step hrw).trans (run_step hen)), ready3 h.strobe⟩

/-! ### The operation -/

/-- Settles O13: step 1 leaves EN low, and the seven transfers of steps 2 to 6 follow. -/
theorem initCompletes : Obligations.InitCompletes := by
  intro s hp
  have hready : Ready { s with opreg := 0x0800, seq := .pos 0 } 0
      (initStep1 ++ transfersMicros (initBytes.map (cmd ·))) :=
    ⟨hp.config, hp.noPulse, hp.released, hp.noReset, rfl, program_of_encode (i := .init) rfl s _⟩
  have hne : transfersMicros (initBytes.map (cmd ·)) ≠ [] := List.cons_ne_nil _ _
  obtain ⟨hstep1, hready3⟩ := run_initStep1 98 hne hready
  obtain ⟨s', hs⟩ := sends_cmds initBytes (afterStep1 { s with opreg := 0x0800 })
  have hrun := run_transfers hs 0 3 (List.cons_ne_nil _ _) hready3
  obtain ⟨hcnt, hidx, hdrop⟩ := hs.counters (by simp [cmd])
  have hexec := requestAccepted .init 0x0800 s rfl hp.idle |>.1 (by simp)
  refine ⟨rfl, _, hexec, hstep1.trans hrun, (sends_finished hs (List.cons_ne_nil _ _)).trans ?_, rfl⟩
  rw [hcnt, hidx, hdrop, afterStep1_hearer, afterStep1_trace, List.append_assoc, ← hp.idle]
  rfl

end Sys2Proof.InitProofs
end

section
/-! The transfers of a RENDER: the row jump and the counts (R176, R177, R182). -/

namespace Sys2Proof.RenderProofs

open Sys2Proof Sys2Proof.Laws Sys2Proof.Machine

/-! ### The row jump -/

/-- As long as no jump is due, the message phase is characters, and goes on from where they end (R176, R183). -/
theorem messagePhase_add {idx : Nat} {d : Bool} (left k : Nat) (h : d = true ∨ idx + k ≤ WRAP_LIMIT + 1) :
    messagePhase (k + left) idx d = List.replicate k character ++ messagePhase left (idx + k) d := by
  induction k generalizing idx with
  | zero => simp
  | succ k ih =>
    have hnot : (WRAP_LIMIT < idx && !d) = false := by
      obtain rfl | hidx := h
      · simp
      · simp [show ¬ WRAP_LIMIT < idx by omega]
    rw [Nat.add_right_comm, messagePhase, hnot, ih (h.imp_right fun h => by omega), Nat.add_right_comm idx]
    rfl

/-- With no jump due before its end, a message is its characters. -/
theorem messagePhase_eq_replicate {len idx : Nat} {d : Bool} (h : d = true ∨ idx + len ≤ WRAP_LIMIT + 1) :
    messagePhase len idx d = List.replicate len character := by
  simpa [messagePhase] using messagePhase_add 0 len h

/-- Settles O17: no jump is due before index 16, it is due there, and once `DROPPED` is 1 never again. -/
theorem rowJumpOnce : Obligations.RowJumpOnce := by
  intro len
  split
  · next hshort => exact messagePhase_eq_replicate (.inr (by simpa [WRAP_LIMIT] using hshort))
  · next hlong =>
    obtain ⟨left, rfl⟩ : ∃ left, len = 16 + (left + 1) := ⟨len - 17, by omega⟩
    have hjump : messagePhase (left + 1) 16 false = rowJump :: character :: messagePhase left 17 true := rfl
    rw [messagePhase_add (left + 1) 16 (.inr (by decide)), Nat.zero_add, hjump,
      messagePhase_eq_replicate (.inl rfl), Nat.add_sub_cancel_left]
    rfl

/-! ### The counts -/

theorem advancePhase_length (n : Nat) : (advancePhase n).length = n := by
  induction n with
  | zero => rfl
  | succ n ih => rw [advancePhase, List.length_cons, ih]

theorem messagePhase_length (len : Nat) :
    (messagePhase len 0 false).length = len + if 16 < len then 1 else 0 := by
  rw [rowJumpOnce len]
  by_cases h : len ≤ 16
  · simp [h, Nat.not_lt.2 h]
  · simp [h, Nat.lt_of_not_le h]
    omega

theorem transfersMicros_length (xs : List Xfer) : (transfersMicros xs).length = 13 * xs.length := by
  induction xs with
  | nil => rfl
  | cons x xs ih =>
    change (transferMicros x ++ transfersMicros xs).length = _
    rw [List.length_append, ih, List.length_cons, Nat.mul_succ, Nat.add_comm]
    rfl

/-- Settles O16: the phases' counts, added. -/
theorem renderTransferCount : Obligations.RenderTransferCount := by
  refine ⟨fun c r col len => ⟨?_, transfersMicros_length _⟩, fun r => by cases r <;> rfl⟩
  have hclear : (if c then clearPhase (rowOrigin r) else []).length = if c then 32 else 0 := by cases c <;> rfl
  simp only [renderXfers, reselectPhase, List.length_append, hclear, advancePhase_length, messagePhase_length,
    advanceCount, List.length_singleton]
  omega

end Sys2Proof.RenderProofs
end

section
/-! `RENDER`, from its acceptance to the idle engine, phase by phase (R170 to R180). -/

namespace Sys2Proof.RenderProofs

open Sys2Proof Sys2Proof.Laws Sys2Proof.Machine Sys2Proof.EncodingProofs Sys2Proof.StateProofs
  Sys2Proof.TransportProofs

section

variable {s s' : State} {xs ys : List Xfer} {ts us : List Transfer} {ops : List LatchOp}

theorem sends_length_eq (h : Sends xs ts s s') : xs.length = ts.length := by
  induction h with
  | nil => rfl
  | cons _ _ ih => rw [List.length_cons, List.length_cons, ih]

/-! ### The phases before the message -/

theorem applyLatchOps_idx_dropped (hi : .indexUp ∉ ops) (hd : .drop ∉ ops) (s : State) :
    (s.idx = 0 → (applyLatchOps ops s).idx = 0) ∧ (applyLatchOps ops s).dropped = s.dropped := by
  induction ops generalizing s with
  | nil => exact ⟨id, rfl⟩
  | cons op ops ih =>
    obtain ⟨hi', hirest⟩ := List.ne_and_not_mem_of_not_mem_cons hi
    obtain ⟨hd', hdrest⟩ := List.ne_and_not_mem_of_not_mem_cons hd
    obtain ⟨hidx, hdropped⟩ := ih hirest hdrest (op.apply s)
    rw [applyLatchOps_cons]
    cases op with
    | clearCnt | countUp => exact ⟨hidx, hdropped⟩
    | clearIdx => exact ⟨fun _ => hidx rfl, hdropped⟩
    | indexUp => exact absurd rfl hi'
    | drop => exact absurd rfl hd'

/-- From any state, whatever the message, `xs` sends `ts`; `DROPPED` stays, and `IDX` stays 0 where it was (R171). -/
def Prepares (xs : List Xfer) (ts : List Transfer) : Prop :=
  ∀ s, ∃ s', Sends xs ts s s' ∧ (s.idx = 0 → s'.idx = 0) ∧ s'.dropped = s.dropped

theorem prepares_nil : Prepares [] [] := fun s => ⟨s, .nil s, id, rfl⟩

theorem Prepares.append (h : Prepares xs ts) (h' : Prepares ys us) : Prepares (xs ++ ys) (ts ++ us) := by
  intro s
  obtain ⟨s1, hs, hidx, hdropped⟩ := h s
  obtain ⟨s2, hs', hidx', hdropped'⟩ := h' s1
  exact ⟨s2, hs.append hs', hidx' ∘ hidx, hdropped'.trans hdropped⟩

/-- A fixed byte, with latch updates of the clear, reselect or advance phase. -/
theorem prepares_fixed (k : Kind) (v : Byte) (hi : .indexUp ∉ ops) (hd : .drop ∉ ops) :
    Prepares [{ kind := k, src := .lit v, after := ops }] [{ kind := k, val := v }] := fun s =>
  ⟨_, .cons rfl (.nil _), applyLatchOps_idx_dropped hi hd { s with
    tKind := k, tVal := v, pins := _, trace := _, observer := _, host := _ }⟩

theorem prepares_blanks (n : Nat) :
    Prepares (List.replicate n [dat SPACE, cmd ADVANCE_OP [.countUp]]).flatten
      (List.replicate n [Transfer.d SPACE, Transfer.c ADVANCE_OP]).flatten := by
  induction n with
  | zero => exact prepares_nil
  | succ n ih =>
    exact ((prepares_fixed .data SPACE (by simp) (by simp)).append
      (prepares_fixed .command ADVANCE_OP (by simp) (by simp))).append ih

/-- The clear phase (R172, R173). -/
theorem prepares_clear (r : Row) : Prepares (clearPhase (rowOrigin r)) (clearTransfers r) :=
  (prepares_fixed .command (rowOrigin r) (by simp) (by simp)).append
    ((prepares_fixed .command ROW0_ORIGIN (by simp) (by simp)).append (prepares_blanks CLEAR_COUNT))

@[simp] theorem mem_startMessage {op : LatchOp} {n : Nat} : op ∈ startMessage n ↔ n = 0 ∧ op = .clearIdx := by
  unfold startMessage
  split <;> simp [*]

theorem prepares_startMessage (v : Byte) {op : LatchOp} (n : Nat) (hi : .indexUp ≠ op) (hd : .drop ≠ op) :
    Prepares [cmd v (op :: startMessage n)] [.c v] :=
  prepares_fixed .command v (by simp [hi]) (by simp [hd])

/-- The reselect phase (R174). -/
theorem prepares_reselect (r : Row) (n : Nat) :
    Prepares (reselectPhase (rowOrigin r) n) [Transfer.c (rowOrigin r)] :=
  prepares_startMessage (rowOrigin r) n (by simp) (by simp)

/-- The advance phase (R175). -/
theorem prepares_advance (n : Nat) : Prepares (advancePhase n) (List.replicate n (.c ADVANCE_OP)) := by
  induction n with
  | zero => exact prepares_nil
  | succ n ih => exact (prepares_startMessage ADVANCE_OP n (by simp) (by simp)).append ih

/-! ### The message phase -/

theorem sends_messageByte_eq (h : Sends xs ts s s') : s'.messageByte = s.messageByte := by
  obtain ⟨-, -, -, -, hmsg, -, -, -, -, -, hepoch, -, -⟩ := h.frame
  funext a
  rw [State.messageByte, hmsg, hepoch, ← State.messageByte]

theorem sends_msgCap_eq (h : Sends xs ts s s') : s'.cfg.msgCap = s.cfg.msgCap := by
  rw [h.frame.1]

/-- The characters at `a`, ..., `a + k - 1`, as transfers (R176). -/
def characters (byte : Nat → Byte) (a k : Nat) : List Transfer := (List.range' a k).map fun i => .d (byte i)

theorem sends_character (hcap : s.idx < s.cfg.msgCap) :
    ∃ s', Sends [character] [.d (s.messageByte s.idx)] s s' ∧ s'.idx = s.idx + 1 ∧ s'.dropped = s.dropped :=
  ⟨_, .cons (if_pos hcap) (.nil _), rfl, rfl⟩

theorem sends_rowJump (s : State) :
    ∃ s', Sends [rowJump] [.c ROW1_ORIGIN] s s' ∧ s'.idx = s.idx ∧ s'.dropped = true :=
  ⟨_, .cons rfl (.nil _), rfl, rfl⟩

/-- Characters from `IDX` on, which comes to where they end (R176). -/
theorem sends_characters (k : Nat) (s : State) (hcap : s.idx + k ≤ s.cfg.msgCap) :
    ∃ s', Sends (List.replicate k character) (characters s.messageByte s.idx k) s s' ∧ s'.idx = s.idx + k ∧
      s'.dropped = s.dropped := by
  induction k generalizing s with
  | zero => exact ⟨s, .nil s, rfl, rfl⟩
  | succ k ih =>
    obtain ⟨s1, hfirst, hidx1, hdropped1⟩ := sends_character (s := s) (by omega)
    obtain ⟨s', hrest, hidx, hdropped⟩ := ih s1 (by rw [sends_msgCap_eq hfirst, hidx1]; omega)
    rw [sends_messageByte_eq hfirst, hidx1] at hrest
    exact ⟨s', hfirst.append hrest, by omega, hdropped.trans hdropped1⟩

/-- The transfers of the message phase, by the indices of their characters (R176, R177). -/
theorem messageTransfers_message (s : State) (n : Nat) :
    messageTransfers (s.message n) =
      if n ≤ 16 then characters s.messageByte 0 n
      else characters s.messageByte 0 16 ++ ([.c ROW1_ORIGIN] ++ characters s.messageByte 16 (n - 16)) := by
  have htake : ((s.message n).take 16).map Transfer.d = characters s.messageByte 0 (min 16 n) := by
    rw [State.message, ← List.map_take, List.take_range, List.range_eq_range', List.map_map]
    rfl
  have hdrop : ((s.message n).drop 16).map Transfer.d = characters s.messageByte 16 (n - 16) := by
    rw [State.message, ← List.map_drop, List.range_eq_range', List.drop_range', List.map_map]
    rfl
  have hlen : (s.message n).length = n := by simp [State.message]
  rw [messageTransfers, WRAP_LIMIT, htake, hdrop, hlen]
  by_cases h : n ≤ 16
  · simp [h, Nat.not_lt.2 h, characters]
  · simp [h, Nat.lt_of_not_le h, (Nat.lt_of_not_le h).le]

/-- The message phase, with its row jump exactly when the message is longer than 16 (R177, R179). -/
theorem sends_messagePhase {n : Nat} (hidx : s.idx = 0) (hdropped : s.dropped = false) (hcap : n ≤ s.cfg.msgCap) :
    ∃ s', Sends (messagePhase n 0 false) (messageTransfers (s.message n)) s s' ∧
      s'.dropped = decide (16 < n) := by
  rw [rowJumpOnce n, messageTransfers_message]
  split
  · next hshort =>
    obtain ⟨s', hs, -, hd⟩ := sends_characters n s (by omega)
    rw [hidx] at hs
    exact ⟨s', hs, by simp [hd, hdropped, hshort]⟩
  · next hlong =>
    obtain ⟨s1, hs1, hidx1, -⟩ := sends_characters 16 s (by omega)
    obtain ⟨s2, hs2, hidx2, hd2⟩ := sends_rowJump s1
    obtain ⟨s', hs', -, hd⟩ := sends_characters (n - 16) s2
      (by rw [sends_msgCap_eq hs2, sends_msgCap_eq hs1]; omega)
    rw [sends_messageByte_eq hs2, sends_messageByte_eq hs1, hidx2, hidx1, hidx, Nat.zero_add] at hs'
    rw [hidx] at hs1
    exact ⟨s', hs1.append (hs2.append hs'), by simp [hd, hd2, Nat.lt_of_not_le hlong]⟩

/-! ### The operation -/

/-- The phases before the message, all but the characters and the row jump (R171). -/
theorem prepares_render (c : Bool) (r : Row) (col : StartCol) :
    Prepares ((if c then clearPhase (rowOrigin r) else []) ++ (reselectPhase (rowOrigin r) (advanceCount col)
        ++ advancePhase (advanceCount col)))
      ((if c then clearTransfers r else []) ++ ([Transfer.c (rowOrigin r)]
        ++ List.replicate col.toNat (Transfer.c ADVANCE_OP))) := by
  have hselect := (prepares_reselect r (advanceCount col)).append (prepares_advance (advanceCount col))
  cases c with
  | false => exact hselect
  | true => exact (prepares_clear r).append hselect

/-- From the latches of acceptance a RENDER sends the transfers of its phases, and `DROPPED` tells whether the
message was longer than 16 (R171, R179). -/
theorem sends_render (c : Bool) (r : Row) (col : StartCol) {n : Nat} (hidx : s.idx = 0)
    (hdropped : s.dropped = false) (hcap : n ≤ s.cfg.msgCap) :
    ∃ s', Sends (renderXfers c r col n) (renderTransfers c r col (s.message n)) s s' ∧
      s'.dropped = decide (16 < n) := by
  obtain ⟨s1, hs, hidx1, hdropped1⟩ := prepares_render c r col s
  obtain ⟨s', hs', hd⟩ := sends_messagePhase (hidx1 hidx) (hdropped1.trans hdropped)
    (hcap.trans_eq (sends_msgCap_eq hs).symm)
  refine ⟨s', ?_, hd⟩
  rw [State.message, sends_messageByte_eq hs, ← State.message] at hs'
  rw [renderTransfers_eq]
  simpa [renderXfers] using hs.append hs'

end

/-- Whatever its operands, a RENDER begins with its row's origin (R172, R174). -/
theorem renderTransfers_cons (c : Bool) (r : Row) (col : StartCol) (msg : List Byte) :
    ∃ rest, renderTransfers c r col msg = .c (rowOrigin r) :: rest := by
  cases c <;> exact ⟨_, rfl⟩

/-- Settles O14: the phases are sent one after the other, from the latches that acceptance takes. -/
theorem renderCompletes : Obligations.RenderCompletes := by
  intro s c r col hp hl
  have hexec := (requestAccepted (.render c r col) (wordR 0b00010 c r col) s rfl hp.idle).2 c r col rfl hl
  have hport : AtPort (renderLatches s) := ⟨hp.config, hp.idle, hp.released, hp.noReset, hp.noPulse⟩
  obtain ⟨s', hs, hdropped⟩ :=
    sends_render (s := { renderLatches s with opreg := wordR 0b00010 c r col }) c r col rfl rfl hl
  obtain ⟨rest, hcons⟩ := renderTransfers_cons c r col (s.message s.msgLen)
  have hts : renderTransfers c r col (s.message s.msgLen) ≠ [] := hcons ▸ List.cons_ne_nil _ _
  have hlen : (renderXfers c r col s.msgLen).length = (renderTransfers c r col (s.message s.msgLen)).length :=
    sends_length_eq hs
  have hxs : renderXfers c r col s.msgLen ≠ [] :=
    List.ne_nil_of_length_pos (hlen ▸ List.length_pos_of_ne_nil hts)
  have hrun := run_request hport (program_of_encode (i := .render c r col) rfl _ _) hxs hs
  refine ⟨_, _, hexec, rfl, hlen ▸ hrun, (sends_finished hs hts).trans ?_⟩
  rw [hdropped, hlen, ← hp.idle]
  rfl

end Sys2Proof.RenderProofs
end

section
/-! The events of a RENDER depend on its operands and the message alone (R115, R180). -/

namespace Sys2Proof.RenderProofs

open Sys2Proof Sys2Proof.Laws Sys2Proof.Machine

theorem transitions_append (p : PinLatches) (es fs : List PinEvent) :
    transitions p (es ++ fs) = transitions p es ++ transitions (p.afterAll es) fs := by
  induction es generalizing p with
  | nil => rfl
  | cons e es ih =>
    cases e with
    | dwell ms => exact congrArg (.dwell ms :: ·) (ih p)
    | cfg sig => exact ih p
    | set sig lvl =>
      simp only [List.cons_append, transitions, ih]
      split <;> rfl

/-- The events of a transfer write every latch (R112; V2.6). -/
theorem afterAll_events (p : PinLatches) (ms : Nat) (t : Transfer) : p.afterAll (t.events ms) = t.latches := by
  have hsetup := latches_after p t
  simp only [PinLatches.afterAll, Transfer.events, List.foldl_cons, List.foldl_nil, PinLatches.after, hsetup]
  rfl

/-- Settles O15: a RENDER adds the events of its transfers, and the first of them leaves the latches its own. -/
theorem renderIdempotent : Obligations.RenderIdempotent := by
  refine ⟨fun s s' c r col hp hp' hms hlen hl hl' hmsg => ?_, fun ms c r col msg => ?_⟩
  · obtain ⟨t, u, hexec, -, hrun, hu⟩ := renderCompletes s c r col hp hl
    obtain ⟨t', u', hexec', -, hrun', hu'⟩ := renderCompletes s' c r col hp' hl'
    rw [← hmsg] at hrun' hu'
    refine ⟨_, _, t, t', u, u', hexec, hexec', hrun, hrun', (congrArg State.seq hu).trans hp.idle,
      (congrArg State.seq hu').trans hp'.idle, congrArg State.trace hu, ?_⟩
    rw [hms]
    exact congrArg State.trace hu'
  · obtain ⟨rest, hcons⟩ := renderTransfers_cons c r col msg
    refine ⟨transitions (Transfer.c (rowOrigin r)).latches (transferEvents ms rest), fun p => ?_⟩
    calc transitions p (transferEvents ms (renderTransfers c r col msg))
        = transitions p ((Transfer.c (rowOrigin r)).events ms ++ transferEvents ms rest) := by rw [hcons]; rfl
      _ = _ := by rw [transitions_append, afterAll_events]

end Sys2Proof.RenderProofs
end

section
/-! The Display under the rules of the bus words (R204 to R216) and what is on the glass (R220): each effect said
once, by what is known of the pointer and the entry mode. -/

namespace Sys2Proof.ObserverProofs

open Sys2Proof Sys2Proof.Laws Sys2Proof.Machine

/-! ### The grid -/

/-- A store beyond column 15 stores nothing (R207). -/
theorem set_eq_self (g : Grid) (r : Row) {c : Nat} (v : Byte) (h : 16 ≤ c) : g.set r c v = g := by
  have hrow : g.rows[r.index].setIfInBounds c (some v) = g.rows[r.index] := by
    simp [Vector.setIfInBounds, Array.setIfInBounds, Nat.not_lt.2 h]
  rw [Grid.set, hrow]
  simp

/-- A store is read at its own position, and every other visible position reads as before. -/
theorem get_set_eq_ite (g : Grid) (r r' : Row) (c : Nat) (v : Byte) {c' : Nat} (h : c' < 16) :
    (g.set r c v).get r' c' = if r' = r ∧ c' = c then some v else g.get r' c' := by
  split
  · next heq =>
    obtain ⟨rfl, rfl⟩ := heq
    exact Grid.get_set g _ v h
  · next hne => exact Grid.get_set_ne g v (mt Prod.mk.inj hne)

theorem get_filled_none (r : Row) (c : Nat) : (Grid.filled none).get r c = none := by
  rw [Grid.get_filled]
  exact ite_self _

/-! ### Moves and stores -/

section

variable {d : Display} {r : Row} {c : Nat} (v : Byte)

theorem left_zero (h : d.col = some 0) : d.left = { d with col := none, offgrid := some true } := by
  rw [Display.left, h]

theorem left_pos (h : d.col = some c) (hc : 0 < c) : d.left = { d with col := some (c - 1) } := by
  obtain ⟨b, rfl⟩ := Nat.exists_eq_add_of_lt hc
  rw [Display.left, h]
  simp

theorem left_unknown (h : d.col = none) : d.left = { d with offgrid := offgridMaybe d.offgrid } := by
  rw [Display.left, h]

theorem right_known (h : d.col = some c) :
    d.right = { d with col := some (c + 1), offgrid := if 15 ≤ c then some true else d.offgrid } := by
  rw [Display.right, h]
  simp [COLS]

theorem right_unknown (h : d.col = none) : d.right = { d with offgrid := offgridMaybe d.offgrid } := by
  rw [Display.right, h]

/-- With the pointer known, a store beyond column 15 differs in `offgrid` alone (R206, R207). -/
theorem store_known (hm : d.entryMode = some .increment) (hr : d.row = some r) (hc : d.col = some c) :
    d.store v = { d with
      cells := d.cells.set r c v, col := some (c + 1), offgrid := if c < 16 then d.offgrid else some true } := by
  simp only [Display.store, hm, hr, hc, COLS]
  split
  · rfl
  · next h => rw [set_eq_self _ _ _ (Nat.le_of_not_lt h)]

theorem store_unknownPointer (hm : d.entryMode = some .increment) (h : d.row = none ∨ d.col = none) :
    d.store v = { d with
      cells := Grid.filled none, col := d.col.map (· + 1), offgrid := offgridStore d.col d.offgrid } := by
  unfold Display.store
  split <;> simp_all

theorem store_notIncrement (hm : d.entryMode ≠ some .increment) :
    d.store v = { d with
      cells := Grid.filled none, row := none, col := none, shift := none
      offgrid := offgridMaybe (offgridStore d.col d.offgrid) } := by
  unfold Display.store
  split <;> simp_all

/-- If the row, the column or the entry mode is unknown every cell becomes unknown (R206). -/
theorem store_cells_unknown (h : d.entryMode = none ∨ d.row = none ∨ d.col = none) :
    (d.store v).cells = Grid.filled none := by
  by_cases hm : d.entryMode = some .increment
  · rw [store_unknownPointer v hm (h.resolve_left (by simp [hm]))]
  · rw [store_notIncrement v hm]

/-- `offgrid` after a store at a known column (R200, R207). -/
theorem offgridStore_some (o : Option Bool) : offgridStore (some c) o = if c ≤ 15 then o else some true :=
  if_congr Nat.lt_succ_iff rfl rfl

theorem offgridMaybe_eq_none {o : Option Bool} (h : o ≠ some true) : offgridMaybe o = none := if_neg h

theorem offgridMaybe_true : offgridMaybe (some true) = some true := rfl

/-- Where the pointer is lost `offgrid` stays set, and a column beyond 15 sets it (log entry 9). -/
theorem offgridMaybe_store_true {col : Option Nat} {o : Option Bool}
    (h : o = some true ∨ ∃ c, col = some c ∧ 15 < c) : offgridMaybe (offgridStore col o) = some true := by
  obtain rfl | ⟨c, rfl, hc⟩ := h
  · cases col with
    | none => rfl
    | some c => rw [offgridStore_some, ite_self, offgridMaybe_true]
  · rw [offgridStore_some, if_neg (Nat.not_le.2 hc), offgridMaybe_true]

/-- Where the pointer is lost and was not known to be beyond column 15, `offgrid` is unknown (log entry 9). -/
theorem offgridMaybe_store_none {col : Option Nat} {o : Option Bool} (ho : o ≠ some true)
    (hc : ∀ c, col = some c → c ≤ 15) : offgridMaybe (offgridStore col o) = none := by
  cases col with
  | none => exact offgridMaybe_eq_none (by simp [offgridStore, offgridMaybe_eq_none ho])
  | some c =>
    rw [offgridStore_some, if_pos (hc c rfl)]
    exact offgridMaybe_eq_none ho

/-! ### The glass -/

variable {v}

theorem glass_dark (h : d.displayEnabled = some false) (r : Row) (c : Nat) : d.glass r c = .dark := by
  rw [Display.glass, h]

theorem glass_code (hd : d.displayEnabled = some true) (hs : d.shift = some 0) (ho : d.offgrid = some false)
    (hv : d.cells.get r c = some v) : d.glass r c = .code v := by
  simp [Display.glass, hd, hs, ho, hv]

/-- Shifted, or off the grid, the glass of a display that is not off is not determined (R207, R214). -/
theorem glass_undetermined (hd : d.displayEnabled ≠ some false) (h : ¬ (d.shift = some 0 ∧ d.offgrid = some false))
    (r : Row) (c : Nat) : d.glass r c = .undetermined := by
  unfold Display.glass
  split
  · exact absurd ‹_› hd
  · exact if_neg h
  · rfl

end

/-! ### A bus word where the Display is known -/

section

variable {i : Instr} {w : BusWord} {s : State} {d : Display}

/-- Where the controller is known a bus word has its rule's effect (R203); only `C(0x06)` can end an initialization. -/
theorem exec_shows (he : encode i = .bus w) (hk : s.knows d) (hi : i ≠ .c06) :
    exec i s = .next (s.shows w (busEffect s.cfg.obs06Moves i d)) := by
  obtain ⟨hp, rfl⟩ := hk
  rw [exec_bus he, observe, take_ready _ _ hp fun h => hi ((TransportProofs.encode_eq_c06_iff he).1 h.2)]
  rfl

/-- `C(0x06)` at the end of an initialization trace, and elsewhere (R215, R221). -/
theorem exec_c06_shows (hk : s.knows d) :
    exec .c06 s = .next (s.shows 0x006
      (if s.observer.seen = 6 then d.setIncrement else d.entryIncrement s.cfg.obs06Moves)) := by
  obtain ⟨hp, rfl⟩ := hk
  rw [exec_bus (i := .c06) (w := 0x006) rfl, observe, State.shows]
  split
  · next hs =>
    rw [take_complete _ (by simp [hp]) hs, if_pos hp, hs]
    rfl
  · next hs =>
    rw [take_ready _ _ hp fun h => hs h.1]
    rfl

theorem encode_data (v : Byte) : encode (.data v) = .bus (0x200 + v.setWidth 10) :=
  congrArg Encoded.bus (EncodingProofs.dataWord_eq_add v)

theorem exec_data_shows (hk : s.knows d) (v : Byte) :
    exec (.data v) s = .next (s.shows (0x200 + v.setWidth 10) (d.store v)) :=
  exec_shows (encode_data v) hk Instr.noConfusion

theorem knows_shows (s : State) (w : BusWord) (d : Display) : (s.shows w d).knows d := ⟨rfl, rfl⟩

end

end Sys2Proof.ObserverProofs
end

section
/-! The obligations about one bus word of a known Display (R204 to R216, R220), and the step that takes it (R202,
R217). -/

namespace Sys2Proof.ObserverProofs

open Sys2Proof Sys2Proof.Laws Sys2Proof.Machine

/-! ### Observer steps -/

/-- A word with a row has the row's effect. -/
theorem step_of_decode {i : Instr} {w : BusWord} (h : decodeBus w = .ok i) (moves : Bool) (o : Observer) :
    o.step moves w = o.take w (busEffect moves i) := by
  rw [Observer.step, h]

/-- A word with no row leaves nothing known (R217). -/
theorem step_of_reject {w : BusWord} (h : ∀ i, decodeBus w ≠ .ok i) (moves : Bool) (o : Observer) :
    o.step moves w = Observer.lost := by
  unfold Observer.step
  split
  · next i hi => exact absurd hi (h i)
  · rfl

/-- Settles O6: the observer's step on the word is the meaning of the row it decodes to. -/
theorem stepRunsStrobedBusWord : Obligations.StepRunsStrobedBusWord := by
  intro s w hc hs
  rw [step_strobe hc hs]
  refine ⟨fun i hi => ?_, fun hn => ?_⟩
  · rw [step_of_decode hi, exec_bus (encode_of_decodeBus hi)]
    rfl
  · rw [step_of_reject hn]
    rfl

/-! ### Commands -/

/-- Settles O36: an origin byte sets the pointer. -/
theorem observerOrigins : Obligations.ObserverOrigins := fun _ _ h =>
  ⟨exec_shows (i := .c80) rfl h (by decide), exec_shows (i := .cc0) rfl h (by decide)⟩

/-- Settles O38: the effect of both words is the identity. -/
theorem observerFunctionSet : Obligations.ObserverFunctionSet := fun _ _ h =>
  ⟨exec_shows (i := .c30) rfl h (by decide), exec_shows (i := .c38) rfl h (by decide)⟩

/-- Settles O39: each byte has its own three booleans. -/
theorem observerDisplayControl : Obligations.ObserverDisplayControl := fun _ _ h =>
  ⟨exec_shows (i := .c08) rfl h (by decide), exec_shows (i := .c0a) rfl h (by decide),
    exec_shows (i := .c0c) rfl h (by decide), exec_shows (i := .c0e) rfl h (by decide),
    exec_shows (i := .c0f) rfl h (by decide)⟩

/-- The entry mode after a clear: increment, if any was known (R211, R216). -/
theorem clear_entryMode (d : Display) :
    d.clear.entryMode = if d.entryMode = none then none else some .increment := by
  rw [Display.clear]
  cases d.entryMode <;> rfl

/-- Settles O40: the cleared grid is blank at every visible position. -/
theorem observerClear : Obligations.ObserverClear := by
  intro s d h
  refine ⟨d.clear, exec_shows (i := .c01) rfl h (by decide), ?_, fun r c hc => ?_⟩
  · rw [← clear_entryMode]
    rfl
  · exact (Grid.get_filled _ r c).trans (if_pos hc)

/-- Settles O41: home sets the pointer and the shift. -/
theorem observerHome : Obligations.ObserverHome := fun _ _ h => exec_shows (i := .c02) rfl h (by decide)

/-- Settles O42: the two moves by the column they start from. -/
theorem observerCursorMoves : Obligations.ObserverCursorMoves := by
  intro s d c h hc
  have hl : exec .c10 s = .next (s.shows 0x010 d.left) := exec_shows (i := .c10) rfl h (by decide)
  have hr : exec .c14 s = .next (s.shows 0x014 d.right) := exec_shows (i := .c14) rfl h (by decide)
  rw [right_known hc] at hr
  refine ⟨fun hpos => ?_, fun hz => ?_, fun hlt => ?_, fun hge => ?_⟩
  · rw [hl, left_pos hc hpos]
  · rw [hl, left_zero (hz ▸ hc)]
  · rw [hr, if_neg (Nat.not_le.2 hlt)]
  · rw [hr, if_pos hge]

/-- Settles O43: the shift is added to, and a glass that is shifted is undetermined. -/
theorem observerDisplayShift : Obligations.ObserverDisplayShift := fun _ _ h =>
  ⟨exec_shows (i := .c18) rfl h (by decide), exec_shows (i := .c1c) rfl h (by decide),
    fun r c hd hs => glass_undetermined (by simp [hd]) (fun hc => hs hc.1) r c⟩

theorem setIncrement_entryMode (d : Display) : d.setIncrement.entryMode = some .increment := rfl

/-- 0x06 sets the entry mode whether or not it moves the pointer (R215). -/
theorem entryIncrement_entryMode (moves : Bool) (d : Display) :
    (d.entryIncrement moves).entryMode = some .increment := by
  cases moves with
  | false => rfl
  | true =>
    cases hc : d.col with
    | none => exact congrArg Display.entryMode (right_unknown (d := d.setIncrement) hc)
    | some c => exact congrArg Display.entryMode (right_known (d := d.setIncrement) hc)

/-- Settles O44: the pointer moves as at a step right, and not where the word ends an initialization trace. -/
theorem observerEntryIncrement : Obligations.ObserverEntryIncrement := by
  intro s d h
  rw [exec_c06_shows h]
  refine ⟨fun hstay => ?_, fun hm hs => ?_⟩
  · obtain hm | hs := hstay
    · rw [hm, show d.entryIncrement false = d.setIncrement from rfl, ite_self]
      rfl
    · rw [if_pos hs]
      rfl
  · rw [if_neg hs, hm, show d.entryIncrement true = d.setIncrement.right from rfl]
    cases hc : d.col with
    | none =>
      rw [right_unknown (d := d.setIncrement) hc]
      exact ⟨_, rfl, by simp [Display.setIncrement, hc], nofun, fun _ => rfl⟩
    | some c =>
      rw [right_known (d := d.setIncrement) hc]
      refine ⟨_, rfl, rfl, fun b hb => ?_, nofun⟩
      cases hb
      rw [← ite_not]
      exact if_congr Nat.not_le rfl rfl

/-- Settles O45: 0x06 makes the entry mode known again, and 0x01 and 0x02 keep it and undo the shift. -/
theorem observerEntryUnknown : Obligations.ObserverEntryUnknown := by
  intro s d h
  refine ⟨?_, ?_⟩
  · simp only [List.forall_mem_cons, List.not_mem_nil, false_imp_iff, implies_true, and_true]
    exact ⟨⟨_, rfl, exec_shows (i := .c04) rfl h (by decide)⟩,
      ⟨_, rfl, exec_shows (i := .c05) rfl h (by decide)⟩, ⟨_, rfl, exec_shows (i := .c07) rfl h (by decide)⟩⟩
  · obtain ⟨d', hd', hmode⟩ : ∃ d',
        exec .c06 s = .next (s.shows 0x006 d') ∧ d'.entryMode = some .increment := by
      refine ⟨_, exec_c06_shows h, ?_⟩
      split
      · exact setIncrement_entryMode d
      · exact entryIncrement_entryMode _ d
    have hk := knows_shows s 0x006 d'
    simp only [List.forall_mem_cons, List.not_mem_nil, false_imp_iff, implies_true, and_true]
    have hclear : d'.clear.entryMode = some .increment := by
      rw [clear_entryMode, hmode]
      rfl
    exact ⟨⟨_, _, hd', exec_shows (i := .c01) rfl hk (by decide), hclear, rfl⟩,
      ⟨_, _, hd', exec_shows (i := .c02) rfl hk (by decide), hmode, rfl⟩⟩

/-! ### Data writes -/

/-- Settles O37: the store by what is known of the pointer. -/
theorem observerStore : Obligations.ObserverStore := by
  intro s d v h
  rw [exec_data_shows h v]
  refine ⟨fun r c hm hr hc hvis => ?_, fun r c hm hr hc hoff => ?_, fun hu => ?_⟩
  · rw [store_known v hm hr hc, if_pos (Nat.lt_succ_of_le hvis)]
    exact ⟨_, rfl, Grid.get_set _ _ _ (Nat.lt_succ_of_le hvis), fun r' c' hne => Grid.get_set_ne _ _ hne⟩
  · rw [store_known v hm hr hc, if_neg (by omega), set_eq_self _ _ _ hoff]
    exact ⟨rfl, fun r' c' hd =>
      glass_undetermined (d := { d with col := some (c + 1), offgrid := some true }) hd (by simp) r' c'⟩
  · exact ⟨_, rfl, fun r c => store_cells_unknown v hu ▸ get_filled_none r c⟩

/-- Settles O46: moves and stores by what is not known. -/
theorem observerUnknownPointer : Obligations.ObserverUnknownPointer := by
  intro s d v h
  rw [exec_data_shows h v]
  refine ⟨fun hc => ⟨?_, ?_⟩, fun hm hu => ?_, fun hm => ?_⟩
  · rw [← offgridMaybe, ← left_unknown hc]
    exact exec_shows (i := .c10) rfl h (by decide)
  · rw [← offgridMaybe, ← right_unknown hc]
    exact exec_shows (i := .c14) rfl h (by decide)
  · rw [store_unknownPointer v hm hu]
    exact ⟨_, rfl, rfl, get_filled_none, fun c hc => by simp only [hc, offgridStore_some],
      fun hc => by simp only [hc]; rfl⟩
  · rw [store_notIncrement v hm]
    exact ⟨_, rfl, rfl, get_filled_none, offgridMaybe_store_true, offgridMaybe_store_none⟩

/-- Settles O52: a store leaves the display off, and its cell is read back. -/
theorem glassShowsCells : Obligations.GlassShowsCells := by
  refine ⟨fun d r c v => ⟨glass_code, fun h => glass_dark h r c⟩, fun s d r c v h hd hm hr hc hvis => ?_⟩
  refine ⟨_, exec_data_shows h v, ?_⟩
  rw [store_known v hm hr hc]
  exact ⟨Grid.get_set _ _ _ (Nat.lt_succ_of_le hvis), glass_dark hd⟩

end Sys2Proof.ObserverProofs
end

section
/-! The observer over a transfer trace: what has been heard of the initialization, and that the Display is known exactly
after one (R203, R217, R221). -/

namespace Sys2Proof.ObserverProofs

open Sys2Proof Sys2Proof.Laws Sys2Proof.Machine Sys2Proof.StateProofs

section

variable {moves : Bool} {o : Observer} {p ws : List BusWord} {w : BusWord} {n : Nat} {i : Instr} {d : Display}

theorem steps_append (moves : Bool) (o : Observer) (ws us : List BusWord) :
    o.steps moves (ws ++ us) = (o.steps moves ws).steps moves us := List.foldl_append

theorem steps_concat (moves : Bool) (o : Observer) (ws : List BusWord) (w : BusWord) :
    o.steps moves (ws ++ [w]) = (o.steps moves ws).step moves w := steps_append moves o ws [w]

/-- The observer is blind for one pulse only (R118). -/
theorem steps_phase_ne_blind (h : o.phase ≠ .blind ∨ ws ≠ []) : (o.steps moves ws).phase ≠ .blind := by
  obtain rfl | ⟨us, w, rfl⟩ := ws.eq_nil_or_concat
  · exact h.resolve_right (· rfl)
  · rw [List.concat_eq_append, steps_concat]
    exact step_phase_ne_blind moves _ w

/-! ### How much of an initialization has been heard -/

/-- `n` counts an initialization that is not complete: its first `n` words end the trace `p` (R203). -/
def Heard (p : List BusWord) (n : Nat) : Prop := n < 7 → initTrace.take n <:+ p

theorem heard_zero (p : List BusWord) : Heard p 0 := fun _ => List.nil_suffix

theorem heard_initSeen (h : Heard p n) (w : BusWord) : Heard (p ++ [w]) (initSeen n w) := by
  intro _
  unfold initSeen
  split
  · next hw =>
    obtain ⟨q, rfl⟩ := h (List.getElem?_eq_some_iff.1 hw).1
    exact ⟨q, by rw [List.take_add_one, hw, List.append_assoc]; rfl⟩
  · split
    · next hw =>
      subst hw
      split
      · next hn =>
        subst hn
        obtain ⟨q, rfl⟩ := h (by decide)
        exact ⟨q ++ [0x030], by simp [initTrace_eq, INIT_WAKE_COUNT]⟩
      · exact List.suffix_append p _
    · exact List.nil_suffix

theorem heard_take (h : Heard p o.seen) (w : BusWord) (f : Display → Display) :
    Heard (p ++ [w]) (o.take w f).seen := by
  have hs := heard_initSeen h w
  simp only [Observer.take]
  split
  · exact heard_zero _
  · split <;> exact hs
  · exact hs

theorem heard_step (h : Heard p o.seen) (moves : Bool) (w : BusWord) :
    Heard (p ++ [w]) (o.step moves w).seen := by
  unfold Observer.step
  split
  · exact heard_take h w _
  · exact heard_zero _

/-- The word that completes an initialization comes at the end of its first six (R203). -/
theorem heard_complete (h : Heard p 6) : initTrace <:+ p ++ [0x006] := by
  obtain ⟨q, rfl⟩ := h (by decide)
  exact ⟨q, by simp [initTrace_eq]⟩

/-! ### From an initialization on -/

/-- A known Display takes a word's effect. Only the 0x06 that completes an initialization is apart, and without
`OBS_06_MOVES` its effect is 0x06's own (R215, R221). -/
theorem step_ready (hd : decodeBus w = .ok i) (hc : moves = true → ¬ (n = 6 ∧ w = 0x006)) :
    Observer.step moves { phase := .ready, seen := n, display := d } w =
      { phase := .ready, seen := initSeen n w, display := busEffect moves i d } := by
  rw [step_of_decode hd]
  by_cases h6 : n = 6 ∧ w = 0x006
  · obtain rfl : moves = false := by simpa using mt hc (not_not_intro h6)
    obtain ⟨rfl, rfl⟩ := h6
    obtain rfl : i = .c06 := (Except.ok.inj hd).symm
    rfl
  · exact take_ready w _ rfl h6

/-- The words `b` after `p`, up to a next initialization where 0x06 moves the pointer, have their rules' effects. -/
theorem steps_ready {b : List BusWord} {is : List Instr} (hd : b.map decodeBus = is.map .ok) (hp : Heard p n)
    (hc : moves = true → ¬ initTrace <:+: p ++ b) :
    ∃ m, Observer.steps moves { phase := .ready, seen := n, display := d } b =
      { phase := .ready, seen := m, display := is.foldl (fun d i => busEffect moves i d) d } := by
  induction b generalizing p n is d with
  | nil =>
    obtain rfl : is = [] := by simpa using hd
    exact ⟨n, rfl⟩
  | cons w b ih =>
    cases is with
    | nil => cases hd
    | cons i is =>
      obtain ⟨hw, hb⟩ := List.cons.inj hd
      rw [List.append_cons] at hc
      have hstep := step_ready (d := d) (n := n) hw fun hm => by
        rintro ⟨rfl, rfl⟩
        obtain ⟨q, hq⟩ := heard_complete hp
        exact hc hm ⟨q, b, by rw [hq]⟩
      obtain ⟨m, hm⟩ := ih (d := busEffect moves i d) hb (heard_initSeen hp w) hc
      exact ⟨m, (congrArg (Observer.steps moves · b) hstep).trans hm⟩

/-- Three wake-ups bring the count to 3, whatever it was. -/
theorem initSeen_wakes (n : Nat) : initSeen (initSeen (initSeen n 0x030) 0x030) 0x030 = 3 := by
  have hwake (n : Nat) : initSeen n 0x030 = if n < 3 then n + 1 else if n = 3 then 3 else 1 := by
    by_cases h : n < 7
    · interval_cases n <;> rfl
    · have hnone : initTrace[n]? = none := List.getElem?_eq_none (Nat.le_of_not_lt h)
      simp [initSeen, hnone, INIT_WAKE_COUNT, show ¬ n < 3 by omega, show n ≠ 3 by omega]
  simp only [hwake]
  split_ifs <;> omega

/-- The words of the initialization make the Display that of R221, known before or not, and whatever `OBS_06_MOVES`
is. -/
theorem steps_initTrace (moves : Bool) (h : o.phase ≠ .blind) :
    o.steps moves initTrace = { phase := .ready, seen := 7, display := Display.afterInit } := by
  obtain ⟨phase, n, d⟩ := o
  have hsplit : initTrace = [0x030, 0x030, 0x030] ++ [0x038, 0x008, 0x001, 0x006] := rfl
  have hword : ¬ ((0x030 : BusWord) = 0x006) := by decide
  have hstep (o : Observer) : o.step moves 0x030 = o.take 0x030 id := step_of_decode (i := .c30) rfl moves o
  rw [hsplit, steps_append]
  cases phase with
  | blind => exact absurd rfl h
  | waiting =>
    have hwakes : Observer.steps moves ⟨.waiting, n, d⟩ [0x030, 0x030, 0x030] = ⟨.waiting, 3, d.forget⟩ := by
      simp only [Observer.steps, List.foldl_cons, List.foldl_nil, hstep, take_waiting, hword, and_false,
        not_false_eq_true, initSeen_wakes]
      rfl
    rw [hwakes]
    rfl
  | ready =>
    have hwakes : Observer.steps moves ⟨.ready, n, d⟩ [0x030, 0x030, 0x030] = ⟨.ready, 3, d⟩ := by
      simp only [Observer.steps, List.foldl_cons, List.foldl_nil, hstep, take_ready, hword, and_false,
        not_false_eq_true, initSeen_wakes, id]
    rw [hwakes]
    rfl

/-! ### Only from an initialization on -/

/-- The trace has an initialization, and every word after it has a row (R203, R217). -/
def Initialized (ws : List BusWord) : Prop :=
  ∃ a b is, ws = a ++ initTrace ++ b ∧ b.map decodeBus = List.map .ok is

theorem Initialized.concat (h : Initialized ws) (hw : decodeBus w = .ok i) : Initialized (ws ++ [w]) := by
  obtain ⟨a, b, is, rfl, hb⟩ := h
  exact ⟨a, b ++ [w], is ++ [i], by rw [List.append_assoc (a ++ initTrace)], by simp [hb, hw]⟩

/-- A word leaves the observer ready only if it was, or if the word completes an initialization (R203). -/
theorem ready_of_step_ready (h : (o.step moves w).phase = .ready) :
    ∃ i, decodeBus w = .ok i ∧ (o.phase = .ready ∨ o.seen = 6 ∧ w = 0x006) := by
  unfold Observer.step at h
  split at h
  · next i hi =>
    refine ⟨i, hi, ?_⟩
    cases hp : o.phase with
    | blind => simp [take_blind _ _ hp] at h
    | ready => exact .inl rfl
    | waiting =>
      refine .inr (by_contra fun h6 => ?_)
      simp [take_waiting _ _ hp h6] at h
  · cases h

/-- What the observer has heard since the machine started, and that it is ready only after an initialization. -/
theorem heard_and_initialized (moves : Bool) (ws : List BusWord) :
    Heard ws (Observer.initial.steps moves ws).seen ∧
      ((Observer.initial.steps moves ws).phase = .ready → Initialized ws) := by
  induction ws using List.reverseRecOn with
  | nil => exact ⟨heard_zero _, nofun⟩
  | append_singleton ws w ih =>
    obtain ⟨hheard, hready⟩ := ih
    rw [steps_concat]
    refine ⟨heard_step hheard moves w, fun h => ?_⟩
    obtain ⟨i, hi, hr | ⟨h6, rfl⟩⟩ := ready_of_step_ready h
    · exact (hready hr).concat hi
    · obtain ⟨a, ha⟩ := heard_complete (h6 ▸ hheard)
      exact ⟨a, [], [], by rw [List.append_nil, ha], rfl⟩

theorem unsure_steps (moves : Bool) (h : Unsure o) (ws : List BusWord) : Unsure (o.steps moves ws) := by
  induction ws using List.reverseRecOn with
  | nil => exact h
  | append_singleton ws w _ =>
    rw [steps_concat]
    exact unsure_step moves _ w

end

/-- Settles O48: the count of the words heard finds every initialization, and without one nothing is known. -/
theorem observerNeedsInit : Obligations.ObserverNeedsInit := by
  refine ⟨fun moves o a b is hblind hd hc => ?_, fun moves ws hno => ?_⟩
  · rw [← initTrace_eq] at hc ⊢
    rw [steps_append, steps_append, steps_initTrace moves (steps_phase_ne_blind hblind)]
    exact steps_ready (p := []) hd (fun h => absurd h (by decide)) hc
  · have hready : (Observer.initial.steps moves ws).phase ≠ .ready :=
      fun h => hno ((heard_and_initialized moves ws).2 h)
    have hblind : (Observer.initial.steps moves ws).phase ≠ .blind :=
      steps_phase_ne_blind (.inl (by decide))
    have hdisplay := unsure_steps moves (o := Observer.initial) (fun _ => rfl) ws hready
    generalize Observer.initial.steps moves ws = o at hready hblind hdisplay
    obtain ⟨phase, n, d⟩ := o
    refine ⟨n, d.offgrid, ?_⟩
    cases phase with
    | blind => exact absurd rfl hblind
    | ready => exact absurd rfl hready
    | waiting => exact congrArg (Observer.mk .waiting n) hdisplay

/-- Settles O49: step 1 leaves an observer that is not blind, and it hears the seven words. -/
theorem initEstablishesDisplay : Obligations.InitEstablishesDisplay := by
  intro s hp hblind
  obtain ⟨-, u, hexec, hrun, hu, -⟩ := InitProofs.initCompletes s hp
  have hobs : u.observer = { phase := .ready, seen := 7, display := Display.afterInit } := by
    refine (congrArg State.observer hu).trans (steps_initTrace s.cfg.obs06Moves ?_)
    split
    · exact hblind
    · simp [Observer.lost]
  refine ⟨_, u, hexec, hrun, (congrArg State.seq hu).trans hp.idle, ?_⟩
  rw [State.knows, hobs]
  exact ⟨⟨rfl, rfl⟩, fun r c hc => (Grid.get_filled _ r c).trans (if_pos hc), glass_dark rfl⟩

end Sys2Proof.ObserverProofs
end

section
/-! A RENDER as the observer sees it: where the blanks and the characters land (R206, R215, R218, R219). -/

namespace Sys2Proof.ObserverProofs

open Sys2Proof Sys2Proof.Laws Sys2Proof.Machine Sys2Proof.StateProofs

/-! ### Transfers heard -/

section

variable {moves : Bool} {d d' d'' : Display} {ts us : List Transfer} {r : Row}

/-- With no beginning of an initialization heard, the transfers `ts` make `d'` of the Display `d`, and none is heard
after them. -/
def Hears (moves : Bool) (d : Display) (ts : List Transfer) (d' : Display) : Prop :=
  Observer.steps moves { phase := .ready, seen := 0, display := d } (ts.map Transfer.word) =
    { phase := .ready, seen := 0, display := d' }

theorem hears_nil (moves : Bool) (d : Display) : Hears moves d [] d := rfl

theorem Hears.append (h : Hears moves d ts d') (h' : Hears moves d' us d'') : Hears moves d (ts ++ us) d'' := by
  rw [Hears, List.map_append, steps_append, h]
  exact h'

theorem initSeen_zero {w : BusWord} (h : w ≠ 0x030) : initSeen 0 w = 0 := by
  have hne : initTrace[0]? ≠ some w := fun hw => h (Option.some.inj hw).symm
  rw [initSeen, if_neg hne, if_neg h]

/-- Any word but 0x30, which begins an initialization, has its rule's effect. -/
theorem hears_of_decode {t : Transfer} {i : Instr} (hd : decodeBus t.word = .ok i) (hw : t.word ≠ 0x030)
    (d : Display) : Hears moves d [t] (busEffect moves i d) := by
  have h := step_ready (moves := moves) (d := d) (n := 0) hd fun _ h => absurd h.1 (by decide)
  rwa [initSeen_zero hw] at h

theorem hears_advance (d : Display) : Hears moves d [Transfer.c ADVANCE_OP] (d.entryIncrement moves) :=
  hears_of_decode (i := .c06) rfl (by decide) d

theorem word_d (v : Byte) : (Transfer.d v).word = dataWord v := rfl

theorem dataWord_ne_wake (v : Byte) : dataWord v ≠ 0x030 := fun h =>
  absurd (h ▸ (busWord_controls v).2.2.1 : (0x030 : BusWord).getLsbD 9 = true) (by decide)

theorem hears_char (v : Byte) (d : Display) : Hears moves d [Transfer.d v] (d.store v) :=
  hears_of_decode (t := .d v) (i := .data v) (word_d v ▸ decodeBus_dataWord v) (word_d v ▸ dataWord_ne_wake v) d

theorem decode_origin (r : Row) (moves : Bool) (d : Display) :
    ∃ i, decodeBus (Transfer.c (rowOrigin r)).word = .ok i ∧ busEffect moves i d = d.origin r := by
  cases r <;> exact ⟨_, rfl, rfl⟩

theorem origin_notMem_initTrace (r : Row) : (Transfer.c (rowOrigin r)).word ∉ initTrace := by
  cases r <;> decide

/-- An origin is no word of the initialization: whatever beginning of one was heard, none is heard after it. -/
theorem step_origin (n : Nat) (r : Row) (d : Display) :
    Observer.step moves { phase := .ready, seen := n, display := d } (Transfer.c (rowOrigin r)).word =
      { phase := .ready, seen := 0, display := d.origin r } := by
  have hother := origin_notMem_initTrace r
  obtain ⟨i, hd, he⟩ := decode_origin r moves d
  rw [step_ready hd fun _ h => hother (h.2 ▸ by decide), initSeen_other n hother, he]

theorem hears_origin (r : Row) (d : Display) : Hears moves d [Transfer.c (rowOrigin r)] (d.origin r) :=
  step_origin 0 r d

theorem steps_origin (n : Nat) (h : Hears moves (d.origin r) ts d') :
    Observer.steps moves { phase := .ready, seen := n, display := d }
      ((Transfer.c (rowOrigin r) :: ts).map Transfer.word) = { phase := .ready, seen := 0, display := d' } :=
  (congrArg (Observer.steps moves · (ts.map Transfer.word)) (step_origin n r d)).trans h

end

/-! ### The transfers of the message phase -/

theorem messageTransfers_of_le {msg : List Byte} (h : msg.length ≤ 16) :
    messageTransfers msg = msg.map Transfer.d := by
  simp [messageTransfers, WRAP_LIMIT, Nat.not_lt.2 h]

theorem messageTransfers_of_lt {msg : List Byte} (h : 16 < msg.length) :
    messageTransfers msg = (msg.take 16).map Transfer.d
      ++ ([Transfer.c (rowOrigin .bottom)] ++ (msg.drop 16).map Transfer.d) := by
  simp [messageTransfers, WRAP_LIMIT, h, rowOrigin]

/-! ### The Display on the way -/

/-- The Display `d` with the cells `g` and the pointer at column `c` of row `r`; `off` says that something went off the
grid on the way there. -/
def trail (d : Display) (r : Row) (g : Grid) (c : Nat) (off : Bool) : Display :=
  { d with row := some r, cells := g, col := some c, offgrid := if off then some true else d.offgrid }

section

variable {moves : Bool} {d : Display} (r : Row) (g : Grid) (c : Nat) (off : Bool)

theorem origin_eq_trail (d : Display) : d.origin r = trail d r d.cells 0 false := rfl

theorem trail_origin (r' : Row) : (trail d r g c off).origin r' = trail d r' g 0 off := rfl

theorem trail_right : (trail d r g c off).right = trail d r g (c + 1) (off || decide (15 ≤ c)) := by
  rw [right_known (c := c) rfl]
  by_cases h : 15 ≤ c <;> simp [trail, h]

variable (hm : d.entryMode = some .increment)
include hm

theorem trail_store (v : Byte) :
    (trail d r g c off).store v = trail d r (g.set r c v) (c + 1) (off || decide (16 ≤ c)) := by
  rw [store_known (d := trail d r g c off) (r := r) (c := c) v hm rfl rfl]
  by_cases h : c < 16
  · simp [trail, h, Nat.not_le.2 h]
  · simp [trail, h, Nat.le_of_not_lt h]

theorem trail_setIncrement : (trail d r g c off).setIncrement = trail d r g c off := by
  rw [Display.setIncrement, ← hm]
  rfl

/-- An advance steps right under `OBS_06_MOVES` and else changes nothing (R215). -/
theorem trail_advance : (trail d r g c off).entryIncrement moves =
    trail d r g (c + moves.toNat) (off || (moves && decide (15 ≤ c))) := by
  rw [Display.entryIncrement, trail_setIncrement r g c off hm]
  cases moves with
  | false => simp
  | true => exact trail_right r g c off

/-! ### The phases of a RENDER -/

/-- Advances from column 0 (R219). -/
theorem hears_advances (n : Nat) :
    Hears moves (trail d r g 0 off) (List.replicate n (Transfer.c ADVANCE_OP))
      (trail d r g (if moves then n else 0) (off || (moves && decide (16 ≤ n)))) := by
  induction n with
  | zero => simpa using hears_nil moves (trail d r g 0 off)
  | succ n ih =>
    have h := ih.append (hears_advance _)
    rw [← List.replicate_succ', trail_advance r g _ _ hm] at h
    convert h using 2
    · cases moves <;> rfl
    · cases moves with
      | false => simp
      | true =>
        have hend : 16 ≤ n + 1 ↔ 16 ≤ n ∨ 15 ≤ n := by omega
        simp [hend, Bool.or_assoc]

/-- Characters land at the visible columns from the pointer on, and one beyond them leaves the grid (R206, R207,
R219). -/
theorem hears_characters (vs : List Byte) :
    ∃ g', Hears moves (trail d r g c off) (vs.map Transfer.d)
        (trail d r g' (c + vs.length) (off || decide (0 < vs.length ∧ 16 < c + vs.length))) ∧
      ∀ r' c', c' < 16 → g'.get r' c' =
        if r' = r ∧ c ≤ c' ∧ c' < c + vs.length then vs[c' - c]? else g.get r' c' := by
  induction vs generalizing g c off with
  | nil => exact ⟨g, by simpa using hears_nil moves (trail d r g c off), fun r' c' _ => by simp⟩
  | cons v vs ih =>
    obtain ⟨g', htail, hcells⟩ := ih (g.set r c v) (c + 1) (off || decide (16 ≤ c))
    have hhead := hears_char (moves := moves) v (trail d r g c off)
    rw [trail_store r g c off hm] at hhead
    refine ⟨g', ?_, fun r' c' hc' => ?_⟩
    · convert hhead.append htail using 2
      · simp
      · simp only [List.length_cons]
        omega
      · have hend : 0 < vs.length + 1 ∧ 16 < c + (vs.length + 1) ↔
            16 ≤ c ∨ 0 < vs.length ∧ 16 < c + 1 + vs.length := by omega
        simp only [List.length_cons, hend, Bool.decide_or, Bool.or_assoc]
    · rw [hcells r' c' hc', get_set_eq_ite _ _ _ _ _ hc', List.length_cons]
      by_cases hin : r' = r ∧ c ≤ c' ∧ c' < c + (vs.length + 1)
      · obtain ⟨hr, hle, hlt⟩ := hin
        obtain rfl | hne := Nat.eq_or_lt_of_le hle
        · simp [hr]
        · obtain ⟨k, rfl⟩ : ∃ k, c' = c + (k + 1) := ⟨c' - c - 1, by omega⟩
          simp [hr, show c + 1 ≤ c + (k + 1) by omega, show c + (k + 1) < c + 1 + vs.length by omega, hlt,
            show c + (k + 1) - (c + 1) = k by omega]
      · rw [if_neg hin, if_neg fun h => hin ⟨h.1, by omega, by omega⟩,
          if_neg fun h => hin ⟨h.1, by omega, by omega⟩]

/-- The message phase: up to sixteen characters from the pointer on, and the rest from column 0 of the bottom row
(R176, R177, R219). -/
theorem hears_message (msg : List Byte) :
    ∃ g', Hears moves (trail d r g c off) (messageTransfers msg)
        (trail d (if msg.length ≤ 16 then r else .bottom) g'
          (if msg.length ≤ 16 then c + msg.length else msg.length - 16)
          (off || decide ((0 < msg.length ∧ 16 < c + min msg.length 16) ∨ 32 < msg.length))) ∧
      ∀ r' c', c' < 16 → g'.get r' c' =
        if r' = .bottom ∧ 16 + c' < msg.length then msg[16 + c']?
        else if r' = r ∧ c ≤ c' ∧ c' < c + min msg.length 16 then msg[c' - c]?
        else g.get r' c' := by
  by_cases hlen : msg.length ≤ 16
  · obtain ⟨g', hchars, hcells⟩ := hears_characters (moves := moves) r g c off hm msg
    have hend : (0 < msg.length ∧ 16 < c + msg.length) ∨ 32 < msg.length ↔
        0 < msg.length ∧ 16 < c + msg.length := by omega
    rw [messageTransfers_of_le hlen, if_pos hlen, if_pos hlen, Nat.min_eq_left hlen]
    simp only [hend]
    refine ⟨g', hchars, fun r' c' hc' => ?_⟩
    have hfew : ¬ (r' = .bottom ∧ 16 + c' < msg.length) := fun h => absurd h.2 (by omega)
    rw [hcells r' c' hc', if_neg hfew]
  · replace hlen : 16 < msg.length := Nat.lt_of_not_le hlen
    have htake : (msg.take 16).length = 16 := List.length_take_of_le hlen.le
    obtain ⟨g₁, hfirst, hcells₁⟩ := hears_characters (moves := moves) r g c off hm (msg.take 16)
    rw [htake] at hfirst hcells₁
    have hjump := hears_origin (moves := moves) .bottom
      (trail d r g₁ (c + 16) (off || decide (0 < 16 ∧ 16 < c + 16)))
    rw [trail_origin] at hjump
    obtain ⟨g₂, hrest, hcells₂⟩ := hears_characters (moves := moves) .bottom g₁ 0
      (off || decide (0 < 16 ∧ 16 < c + 16)) hm (msg.drop 16)
    rw [List.length_drop, Nat.zero_add, Bool.or_assoc, ← Bool.decide_or] at hrest
    rw [List.length_drop, Nat.zero_add] at hcells₂
    have hend : (0 < msg.length ∧ 16 < c + 16) ∨ 32 < msg.length ↔
        (0 < 16 ∧ 16 < c + 16) ∨ 0 < msg.length - 16 ∧ 16 < msg.length - 16 := by omega
    rw [messageTransfers_of_lt hlen, if_neg hlen.not_ge, if_neg hlen.not_ge, Nat.min_eq_right hlen.le]
    simp only [hend]
    refine ⟨g₂, hfirst.append (hjump.append hrest), fun r' c' hc' => ?_⟩
    rw [hcells₂ r' c' hc', hcells₁ r' c' hc', List.getElem?_drop, Nat.sub_zero]
    refine if_congr (and_congr_right fun _ => by omega) rfl (if_ctx_congr Iff.rfl (fun h => ?_) fun _ => rfl)
    exact List.getElem?_take_of_lt (by omega)

/-- A blank and the advance after it (R172). -/
theorem hears_blank : Hears moves (trail d r g c off) [Transfer.d SPACE, Transfer.c ADVANCE_OP]
    (trail d r (g.set r c SPACE) (c + 1 + moves.toNat)
      (off || decide (16 ≤ c) || (moves && decide (15 ≤ c + 1)))) := by
  have h := (hears_char (moves := moves) SPACE (trail d r g c off)).append (hears_advance _)
  rwa [trail_store r g c off hm, trail_advance r _ _ _ hm] at h

/-- The blanks of the clear phase land at every column from 0 on, or under `OBS_06_MOVES` at every second, where the
eighth advance leaves the grid (R218). -/
theorem hears_blanks (k : Nat) (hk : k ≤ 15) :
    ∃ g', Hears moves (trail d r g 0 false) (List.replicate k [Transfer.d SPACE, Transfer.c ADVANCE_OP]).flatten
        (trail d r g' ((moves.toNat + 1) * k) (moves && decide (8 ≤ k))) ∧
      ∀ r' c', c' < 16 → g'.get r' c' =
        if r' = r ∧ ∃ j < k, c' = (moves.toNat + 1) * j then some SPACE else g.get r' c' := by
  induction k with
  | zero => exact ⟨g, by simpa using hears_nil moves (trail d r g 0 false), by simp⟩
  | succ k ih =>
    obtain ⟨g', hhead, hcells⟩ := ih (by omega)
    have h := hhead.append (hears_blank r g' ((moves.toNat + 1) * k) (moves && decide (8 ≤ k)) hm)
    refine ⟨g'.set r ((moves.toNat + 1) * k) SPACE, ?_, fun r' c' hc' => ?_⟩
    · convert h using 2
      · simp [List.replicate_succ']
      · rw [Nat.mul_succ]
        omega
      · cases moves with
        | false => simp; omega
        | true =>
          have hend : 8 ≤ k + 1 ↔ (8 ≤ k ∨ 16 ≤ 2 * k) ∨ 15 ≤ 2 * k + 1 := by omega
          simp [hend]
    · rw [get_set_eq_ite _ _ _ _ _ hc', hcells r' c' hc', ← ite_or]
      refine if_congr ?_ rfl rfl
      rw [Nat.exists_lt_succ_right, and_or_left, or_comm]

end

/-! ### The statements -/

/-- Settles O50: both origins, and the blanks from column 0 of the top row. -/
theorem clearPhaseSeen : Obligations.ClearPhaseSeen := by
  intro d r moves n hm
  obtain ⟨g, hblanks, hcells⟩ := hears_blanks (moves := moves) .top d.cells hm 15 (by decide)
  have htop := hears_origin (moves := moves) .top (d.origin r)
  rw [origin_eq_trail r d, trail_origin] at htop
  refine ⟨_, steps_origin n (htop.append hblanks), fun c hc => ?_, rfl, ?_, ?_⟩
  · exact (hcells .bottom c hc).trans (if_neg (by simp))
  · rintro rfl
    refine ⟨rfl, rfl, fun c hc => (hcells .top c hc).trans (if_congr ?_ rfl rfl)⟩
    simp
  · rintro rfl
    refine ⟨rfl, fun c hc => (hcells .top c hc).trans (if_congr ?_ rfl rfl)⟩
    exact ⟨fun ⟨_, j, _, hj⟩ => by simp [hj], fun hz => ⟨rfl, c / 2, by omega, by simp; omega⟩⟩

/-- Settles O51: the advances give the start column, and the row jump begins again at column 0 of the bottom row. -/
theorem messageSeen : Obligations.MessageSeen := by
  intro d moves r col msg k n hm hk
  obtain ⟨g, hmessage, hcells⟩ := hears_message (moves := moves) r d.cells k
    (moves && decide (16 ≤ col.toNat)) hm msg
  have hadvance := hears_advances (moves := moves) r d.cells false hm col.toNat
  rw [← hk, Bool.false_or] at hadvance
  have hoff : (moves && decide (16 ≤ col.toNat)) = decide (16 ≤ k) := by
    cases moves <;> simp [hk]
  rw [renderTransfers_eq]
  refine ⟨_, steps_origin n (hadvance.append hmessage), hcells, ?_, ?_, rfl, rfl⟩
  · rintro ⟨hstart, hfits, hshort⟩
    refine if_neg ?_
    rw [hoff, ← Bool.decide_or, decide_eq_true_iff]
    omega
  · intro hover
    refine if_pos ?_
    rw [decide_eq_true hover, Bool.or_true]

end Sys2Proof.ObserverProofs
end

section
/-! Exceptions: acceptance after a fault (R231, R233, R238), and what coincides in one step (R237). -/

namespace Sys2Proof.ExceptionProofs

open Sys2Proof Sys2Proof.Laws Sys2Proof.Machine Sys2Proof.StateProofs Sys2Proof.MemoryProofs Sys2Proof.EncodingProofs

section

variable {s t : State} {n : Nat} {i : Instr} {m : Micro}

/-! ### Acceptance after a fault -/

@[simp] theorem acceptLatches_responses (i : Instr) (s : State) :
    (acceptLatches i s).responses = s.responses := by cases i <;> rfl

/-- The latches a request takes are none that a fault writes (R88, R231). -/
theorem acceptLatches_raiseFault (i : Instr) (code : Code) (s : State) :
    acceptLatches i (raiseFault code s) = raiseFault code (acceptLatches i s) := by cases i <;> rfl

/-- What leaves the idle engine at event 0 is the acceptance of a request whose length is in range (R88, R92). -/
theorem accepted_of_started (hi : s.seq = .idle) (he : exec i s = .next t) (ht : t.seq = .pos 0) :
    ∃ w, encode i = .request w ∧ (isRender i = true → s.msgLen ≤ s.cfg.msgCap) ∧
      t = { acceptLatches i s with opreg := w, seq := .pos 0 } := by
  obtain ⟨w, _, rfl⟩ | ⟨w, hw, ⟨_, rfl⟩ | ⟨_, _, rfl⟩ | ⟨_, hl, _⟩⟩ := exec_cases he
  iterate 3 · cases hi.symm.trans ht
  · cases he.symm.trans (exec_accepts hw hi hl)
    exact ⟨w, hw, hl, rfl⟩

/-! ### The last event of an operation -/

theorem transfersMicros_getLast? (xs : List Xfer) :
    (transfersMicros xs).getLast? = xs.getLast?.map (Micro.phase .enl) := by
  obtain rfl | ⟨ys, x, rfl⟩ := xs.eq_nil_or_concat
  · rfl
  · simp [transfersMicros, transferMicros, transportPhases]

theorem enl_of_getLast?_transfers {xs : List Xfer} (h : (transfersMicros xs).getLast? = some m) :
    ∃ x, m = .phase .enl x := by
  rw [transfersMicros_getLast?] at h
  obtain ⟨x, _, rfl⟩ := Option.map_eq_some_iff.1 h
  exact ⟨x, rfl⟩

/-- Every event list ends with a transfer, and a transfer with the fall of EN (R112, R161). -/
theorem enl_of_getLast?_programOf (h : (programOf n i).getLast? = some m) : ∃ x, m = .phase .enl x := by
  cases i with
  | init => exact enl_of_getLast?_transfers (xs := initBytes.map (cmd ·)) h
  | render | wcmd | wdata | clr | home | cshl | cshr | dshl | dshr | doff | doffc | don | donb | mcl | mcr
  | sdl | sdr | row0 | row1 => exact enl_of_getLast?_transfers h
  | _ => cases h

theorem enl_of_getLast?_program (h : s.program.getLast? = some m) : ∃ x, m = .phase .enl x := by
  unfold State.program at h
  split at h
  · exact enl_of_getLast?_programOf h
  · cases h

/-- At the last position of its list the sequencer has the fall of EN still to do. -/
theorem program_drop_last (h : n + 1 = s.program.length) : ∃ x, s.program.drop n = [.phase .enl x] := by
  have hne : s.program ≠ [] := List.ne_nil_of_length_eq_add_one h.symm
  obtain ⟨x, hx⟩ := enl_of_getLast?_program (List.getLast?_eq_some_getLast hne)
  obtain rfl : n = s.program.length - 1 := Nat.eq_sub_of_add_eq h
  exact ⟨x, by rw [List.drop_length_sub_one hne, hx]⟩

/-- The last step of an operation leaves the engine at its port, and the host's entry there unless it is `quiet`
(R23, R88). -/
theorem atPort_of_lastEvent (h : AtEvent s n) (hlast : n + 1 = s.program.length) :
    ∃ u, step s = .next u ∧ AtPort u ∧ u.host = hostTick s.host := by
  obtain ⟨x, hx⟩ := program_drop_last hlast
  have hready : Ready s n [.phase .enl x] :=
    ⟨h.config, h.noPulse, h.released, h.noReset, h.position, hx⟩
  refine ⟨_, step_ready hready rfl, ⟨?_, rfl, ?_, ?_, ?_⟩, ?_⟩
  · simpa using h.config
  · simpa using h.released
  · simpa using h.noReset
  · simpa using h.noPulse
  · simp

/-! ### A length presented with a RENDER -/

/-- `MSG_CAP` fits the `LEN_W` bits of `MSG_LEN` (R51). -/
theorem msgCap_lt_two_pow_lenW (c : Config) : c.msgCap < 2 ^ c.lenW := Nat.lt_log2_self

/-- A RENDER is accepted with the length that is written together with it (R53, R237 (c)). -/
theorem step_lenAndRender {c : Bool} {r : Row} {col : StartCol} {hs : List HostInput} (hp : AtPort s)
    (he : s.host = .both (.len n) (wordR 0b00010 c r col) :: hs) (hn : n ≤ s.cfg.msgCap) :
    step s = .next { renderLatches { s with host := hs, msgLen := n } with
      opreg := wordR 0b00010 c r col, seq := .pos 0 } := by
  have hd : decodeRequest (wordR 0b00010 c r col) = .ok (.render c r col) := decodeRequest_eq_ok_iff.2 rfl
  have hfits : n < 2 ^ s.cfg.lenW := hn.trans_lt (msgCap_lt_two_pow_lenW s.cfg)
  rw [(stepRunsPresentedRequest s _ _ hs hp hd).2 _ he, hostWrite_len (s := { s with host := hs }) hfits]
  exact exec_accepts rfl hp.idle fun _ => hn

end

/-! ### The statements -/

/-- Settles O26: acceptance looks at `SEQ`, the length and the word, and a fault writes none of them. -/
theorem faultDoesNotDisable : Obligations.FaultDoesNotDisable := by
  intro s u code i hi he hu
  obtain ⟨w, hw, hl, rfl⟩ := accepted_of_started hi he hu
  refine ⟨_, exec_accepts (s := raiseFault code s) hw hi hl, rfl, rfl, ?_⟩
  rw [acceptLatches_raiseFault]
  simp

/-- Settles O28: reset has the step; the last event leaves the request at the port of the idle engine; and the
write comes before the word. -/
theorem simultaneousEvents : Obligations.SimultaneousEvents := by
  refine ⟨fun s t hc hs hr => ?_, fun s n w h hev hlast hh => ?_, fun s n c r col h hp he hn => ?_⟩
  · exact ⟨_, step_of_turn hc (.reset hs (by simp [hr])), rfl, rfl, rfl, rfl⟩
  · obtain ⟨u, hstep, hport, hhost⟩ := atPort_of_lastEvent hev hlast
    rw [hh, hostTick_of_not_quiet (by simp)] at hhost
    exact ⟨u, hstep, hport, hhost, fun i hd => (stepRunsPresentedRequest u w i h hport hd).1 hhost⟩
  · exact ⟨_, step_lenAndRender hp he hn, rfl, rfl, rfl⟩

end Sys2Proof.ExceptionProofs
end

section
/-! Reset released, and the idle engine (R261, R262). -/

namespace Sys2Proof.ResetProofs

open Sys2Proof Sys2Proof.Laws Sys2Proof.Machine Sys2Proof.StateProofs Sys2Proof.MemoryProofs

/-! ### The pins through PinAssignment -/

/-- The signals of R261 are in the order of the identifiers. -/
theorem map_pinOf_all (m : PinMap) : Sig.all.toList.map (pinOf m) = m.ids := by
  have hd : m.d.toList = List.ofFn fun b : Fin DATA_W => m.d[b] :=
    List.ext_getElem (by simp) fun _ _ _ => by rw [List.getElem_ofFn]; rfl
  rw [PinMap.ids, hd]
  rfl

/-- The calls of the `Cfg` events of R261. -/
theorem map_call_cfgEvents (m : PinMap) :
    cfgEvents.map (PinEvent.call m) = m.ids.map .configurePin := by
  rw [← map_pinOf_all, cfgEvents, List.map_map, List.map_map]
  rfl

/-! ### Reset and its release -/

variable {s : State}

/-- The step of reset (R260), after which no further level of the input is listed. -/
theorem step_enterReset (hc : s.cfg.wf = true) (hs : s.strobe = none) (hr : s.resetIn = [true]) :
    step s = .next (enterReset { s with resetIn := [] }) := by
  have hturn := step_of_turn hc (.reset hs (by rw [hr]; rfl))
  rwa [tickReset, hr] at hturn

/-- The step in which the reset input falls (R261). -/
theorem step_releaseReset (hc : s.cfg.wf = true) (hs : s.strobe = none) (hr : s.resetIn = [])
    (hin : s.inReset = true) : step s = .next (releaseReset s) := by
  have hturn := step_of_turn hc (.release ⟨hs, by simp [hr]⟩ hin)
  rwa [tickReset_of_noReset hr] at hturn

/-- One step of reset and its release. -/
theorem run_reset_release (hc : s.cfg.wf = true) (hs : s.strobe = none) (hr : s.resetIn = [true]) :
    run 2 s = .next (releaseReset (enterReset { s with resetIn := [] })) :=
  (run_step (step_enterReset hc hs hr)).trans (run_step (k := 0) (step_releaseReset hc rfl rfl rfl))

/-! ### The statements -/

/-- Settles O34: the release appends the eleven events to the empty trace of reset. -/
theorem releaseConfiguresPins : Obligations.ReleaseConfiguresPins := by
  intro s hc hs hr
  exact ⟨_, run_reset_release hc hs hr, rfl, rfl, rfl, cfgEvents_eq, map_call_cfgEvents s.cfg.pins⟩

/-- Settles O35: the host's turn finds nothing, and no level of the reset input is listed to go by. -/
theorem idleDoesNothing : Obligations.IdleDoesNothing := by
  intro s hp hh
  have hturn := step_of_turn hp.config (.idle ⟨hp.noPulse, by simp [hp.noReset]⟩ hp.released hp.idle hh)
  rwa [tickReset_of_noReset hp.noReset] at hturn

end Sys2Proof.ResetProofs
end
